-- ==== Sys2Proof/Word.lean ====
section
/-! DEFINITION. The widths of TERO-HUF's values (spec/00_scope.md R6, R9): every value is an unsigned number of a
fixed width. -/

namespace Sys2Proof

/-- A command word, a CSR, a HIST counter (`CMD_W` = `CNT_W` = 32, R6). -/
abbrev Word := BitVec 32

/-- A Symbol, a buffer byte, a code length, an opcode (`SYM_W` = `LEN_W` = 8, R6). -/
abbrev Byte := BitVec 8

/-- A tree node's frequency (`FREQ_W` = 40, R6). -/
abbrev Freq := BitVec 40

/-- An index of the NODE table: 0 to 510 name entries, 511 is NIL (R6, R32). -/
abbrev NodeIdx := BitVec 9

/-- A count of symbols or nodes (ranges 0..256 and 0..511 of spec/10_state.md R23). -/
abbrev Count := BitVec 9

/-- A CODE table entry (`CODE_W` = 255, R6). -/
abbrev Code := BitVec 255

end Sys2Proof
end

