-- ==== Sys2Proof/Syntax.lean ====
section
/-! DEFINITION. The commands, one constructor per row of spec/opcode_table.json, and the one command format `C`
(spec/30_encoding.md R80, R81). A command carries no operand (R83). -/

namespace Sys2Proof

/-- The fourteen commands of spec/30_encoding.md R81. -/
inductive Instr where
  | nop | srst
  | hist
  | tseed | tmerge | tfin | tbuild
  | clen | ccanon | cgen
  | pack | unpack
  | encode | decode
  deriving DecidableEq, Repr

/-- Every command, in the table's order. -/
def Instr.all : List Instr :=
  [.nop, .srst, .hist, .tseed, .tmerge, .tfin, .tbuild, .clen, .ccanon, .cgen, .pack, .unpack, .encode, .decode]

/-- The two fields of a command word (format `C`, R80). -/
structure CmdFields where
  opcode : Byte
  zero   : BitVec 24
  deriving DecidableEq, Repr

end Sys2Proof
end

