-- ==== Sys2Proof/WellFormed.lean ====
section
/-! DEFINITION. When a command word is legal (spec/30_encoding.md R80, R82). A command itself has no operand, so every
term of `Instr` is well-formed (R83); what can be ill-formed is the pair of fields of a written word. -/

namespace Sys2Proof

/-- The fourteen opcode values of R81. -/
def WellFormed.opcodes : List Byte :=
  [0x00#8, 0x01#8, 0x10#8, 0x20#8, 0x21#8, 0x22#8, 0x23#8, 0x30#8, 0x31#8, 0x32#8, 0x40#8, 0x50#8, 0x60#8, 0x70#8]

/-- Check 1 of R80: bits 31:8 must be 0. -/
def CmdFields.zeroOk (f : CmdFields) : Bool := f.zero == 0#24

/-- Check 2 of R80: the opcode is one of the fourteen values. -/
def CmdFields.opcodeOk (f : CmdFields) : Bool := WellFormed.opcodes.contains f.opcode

/-- A legal command word's fields (R80). -/
def CmdFields.wf (f : CmdFields) : Bool := f.zeroOk && f.opcodeOk

/-- No operand, nothing to check (R83: "The command word has no immediate and no register field"). -/
def Instr.wf : Instr → Bool
  | .nop | .srst | .hist | .tseed | .tmerge | .tfin | .tbuild => true
  | .clen | .ccanon | .cgen | .pack | .unpack | .encode | .decode => true

end Sys2Proof
end

