-- ==== Sys2Proof/Decode.lean ====
section
/-! DEFINITION. Command words to commands and back (spec/30_encoding.md R80 to R82). Decoding depends on no state and
is total: every word is one of the fourteen commands or is illegal, with the reason by name. -/

namespace Sys2Proof

/-- Why a word is not a legal command (R80, R82). -/
inductive IllegalWord where
  /-- one of bits 31:8 is set -/
  | reservedBits
  /-- the opcode is outside the table of R81 -/
  | unassignedOpcode
  deriving DecidableEq, Repr

/-- What a 32-bit word written to CMD is. -/
inductive Decoded where
  | command (i : Instr)
  | illegal (why : IllegalWord)
  deriving DecidableEq, Repr

/-- The fields of a command word: `opcode` is bits 7:0, `zero` is bits 31:8 (R80). -/
def CmdFields.ofWord (w : Word) : CmdFields :=
  { opcode := w.extractLsb' 0 8, zero := w.extractLsb' 8 24 }

/-- The command word with these fields. -/
def CmdFields.toWord (f : CmdFields) : Word := f.zero ++ f.opcode

/-- A row of the opcode map. -/
structure OpRow where
  opcode : Byte
  instr  : Instr
  deriving DecidableEq, Repr

/-- The opcode map of R81. -/
def opcodeMap : List OpRow :=
  [ ⟨0x00#8, .nop⟩,    ⟨0x01#8, .srst⟩,
    ⟨0x10#8, .hist⟩,
    ⟨0x20#8, .tseed⟩,  ⟨0x21#8, .tmerge⟩, ⟨0x22#8, .tfin⟩, ⟨0x23#8, .tbuild⟩,
    ⟨0x30#8, .clen⟩,   ⟨0x31#8, .ccanon⟩, ⟨0x32#8, .cgen⟩,
    ⟨0x40#8, .pack⟩,
    ⟨0x50#8, .unpack⟩,
    ⟨0x60#8, .encode⟩,
    ⟨0x70#8, .decode⟩ ]

/-- The command with this opcode, if the map lists it. -/
def instrOfOpcode (op : Byte) : Option Instr :=
  (opcodeMap.find? fun r => r.opcode == op).map OpRow.instr

/-- Decode a word written to CMD (R80, R82): reserved bits first, then the opcode. -/
def decode (w : Word) : Decoded :=
  let f := CmdFields.ofWord w
  if f.zero = 0#24 then
    match instrOfOpcode f.opcode with
    | some i => .command i
    | none => .illegal .unassignedOpcode
  else .illegal .reservedBits

/-- The command word of each command (R81, the column "command word"). -/
def encode : Instr → Word
  | .nop    => 0x00000000#32
  | .srst   => 0x00000001#32
  | .hist   => 0x00000010#32
  | .tseed  => 0x00000020#32
  | .tmerge => 0x00000021#32
  | .tfin   => 0x00000022#32
  | .tbuild => 0x00000023#32
  | .clen   => 0x00000030#32
  | .ccanon => 0x00000031#32
  | .cgen   => 0x00000032#32
  | .pack   => 0x00000040#32
  | .unpack => 0x00000050#32
  | .encode => 0x00000060#32
  | .decode => 0x00000070#32

/-- Bits [7:0] of a word written to CMD: what STATUS.LASTOP records (spec/10_state.md R26). -/
def opcodeOf (w : Word) : Byte := w.extractLsb' 0 8

/-- The word whose low `nbits` bits are those of `w` and whose other bits are 0. -/
def tableWord (nbits w : Nat) : Word := BitVec.ofNat 32 (w % 2 ^ nbits)

/-- The command the decoder reads from a word given as the opcode table numbers its bits. -/
def decodeTableWord (nbits w : Nat) : Option Instr :=
  match decode (tableWord nbits w) with
  | .command i => some i
  | .illegal _ => none

end Sys2Proof
end

