-- ==== Sys2Proof/Config.lean ====
section
/-! DEFINITION. What is fixed for the machine: the fixed parameters of spec/00_scope.md R6, the open parameters of R7,
and the free values of spec/93_implementation_defined.md. A constant declared `opaque` has no body: nothing can be
proved of its value. -/

namespace Sys2Proof

/-- `NIL`: the node index that means "no node" (R6). -/
def Config.nil : NodeIdx := 0x1FF#9

/-- `ID_VALUE`: the value of the ID register (R6, R24). -/
def Config.idValue : Word := 0x31465548#32

/-- `MAGIC`: the artifact marker, in ascending address order (R6, spec/30_encoding.md R91). -/
def Config.magic : List Byte := [0x48#8, 0x55#8, 0x46#8, 0x31#8]

/-- `LMAX`: the largest code length (R6). -/
def Config.lmax : Nat := 255

/-- `NODE_MAX`: entries in the NODE table (R6). -/
def Config.nodeMax : Nat := 511

/-- `IBUF_BYTES` of the built machine: an open parameter, 0 .. 2^32 - 1 (R7, U2; log 4). -/
opaque Config.ibufBytes : Word

/-- `OBUF_BYTES` of the built machine: an open parameter, 0 .. 2^32 - 1 (R7, U2; log 4). -/
opaque Config.obufBytes : Word

/-- Free value: the byte that IBUF holds at an address after the n-th hardware reset, until it is written
(spec/70_reset_and_hazards.md R251, U1; log 3). -/
opaque Config.ibufFree : Nat → Nat → Byte

/-- Free value: the byte that OBUF holds at an address after the n-th hardware reset, until it is written
(spec/70_reset_and_hazards.md R251, U1; log 3). -/
opaque Config.obufFree : Nat → Nat → Byte

end Sys2Proof
end

