-- ==== Sys2Proof/Machine/State.lean ====
section
/-! DEFINITION. The state of one TERO-HUF instance (spec/10_state.md R20), the host operations still to come, the
reasons a step can stop, and the state after a hardware reset (R41). -/

namespace Sys2Proof.Machine

/-- The kind of a NODE entry (R32; the value 3 never occurs, U11). -/
inductive NodeKind where
  | free | leaf | internal
  deriving DecidableEq, Repr

/-- An entry of the NODE table (R32). -/
structure Node where
  kind  : NodeKind
  inq   : Bool
  sym   : Byte
  freq  : Freq
  left  : NodeIdx
  right : NodeIdx
  deriving DecidableEq, Repr

/-- The Free entry (R32): "Free with `inq = 0`, `sym = 0`, `freq = 0`, `left = right = NIL`". -/
def Node.free : Node :=
  { kind := .free, inq := false, sym := 0#8, freq := 0#40, left := Config.nil, right := Config.nil }

/-- The failure kinds 1 to 7 (spec/60_exceptions.md R220). Kind 0, "None", is the absence of one. -/
inductive FailKind where
  | invalidHeader | inconsistentCodeLengths | truncatedPayload | unassignedCode
  | bufferOverflow | illegalCommand | badState
  deriving DecidableEq, Repr

/-- The visible end states of the Decoder's state machine (R26, spec/46_decoder.md R203, U8). -/
inductive DState where
  | idle | done | failed
  deriving DecidableEq, Repr

/-- The fields of STATUS (R26). -/
structure Status where
  done   : Bool
  fail   : Bool
  tblv   : Bool
  kind   : Option FailKind
  dstate : DState
  lastop : Byte
  deriving DecidableEq, Repr

/-- A table indexed by symbol value, 256 entries. -/
abbrev SymTable (α : Type) := Vector α 256

/-- The NODE table, 511 entries (R32). -/
abbrev NodeTable := Vector Node 511

/-- The written bytes of a buffer, addresses strictly rising. -/
abbrev Memory := List Host.Cell

/-- The address spaces accessed by 32-bit word (spec/20_memory.md R60). -/
inductive WordSpace where
  | csr | hist | len | code | order | node
  deriving DecidableEq, Repr

/-- The address spaces accessed by byte (spec/20_memory.md R60). -/
inductive ByteSpace where
  | ibuf | obuf
  deriving DecidableEq, Repr

/-- What the outside world does to the machine: the host operations of spec/20_memory.md R61, each moving one unit of
its space (R65), and the hardware reset of spec/70_reset_and_hazards.md R250. -/
inductive Event where
  | readWord (space : WordSpace) (index : Nat)
  | writeWord (space : WordSpace) (index : Nat) (value : Word)
  | readByte (space : ByteSpace) (index : Nat)
  | writeByte (space : ByteSpace) (index : Nat) (value : Byte)
  | hardReset
  deriving DecidableEq, Repr

/-- The unit a host read returns (R61). -/
inductive Datum where
  | word (value : Word)
  | byte (value : Byte)
  deriving DecidableEq, Repr

/-- The whole state (R20), and below it five fields of the model's own. -/
structure State where
  /-- STATUS, CSR 2 (R26) -/
  status      : Status
  /-- SRC_OFF, CSR 3 (R27) -/
  srcOff      : Word
  /-- SRC_LEN, CSR 4 (R27) -/
  srcLen      : Word
  /-- DST_OFF, CSR 5 (R27) -/
  dstOff      : Word
  /-- SYM_N, CSR 6 (R27) -/
  symN        : Word
  /-- DST_LEN, CSR 7 (R28) -/
  dstLen      : Word
  /-- ORIG_LEN, CSR 8 (R28) -/
  origLen     : Word
  /-- HIST_TOTAL, CSR 9 (R28) -/
  histTotal   : Word
  /-- HIST_NSYM, CSR 10, 0..256 (R28) -/
  histNsym    : Count
  /-- NODE_COUNT, CSR 11, 0..511 (R28) -/
  nodeCount   : Count
  /-- PQ_COUNT, CSR 12, 0..256 (R28, R33) -/
  pqCount     : Count
  /-- ROOT, CSR 13, 0..510 or NIL (R28) -/
  root        : NodeIdx
  /-- CODE_NSYM, CSR 14, 0..256 (R28) -/
  codeNsym    : Count
  /-- TOTAL_BITS_LO, CSR 15 (R28) -/
  totalBitsLo : Word
  /-- TOTAL_BITS_HI, CSR 16, 0..255 (R28) -/
  totalBitsHi : Byte
  /-- HIST (R30) -/
  hist        : SymTable Word
  /-- NODE (R32) -/
  node        : NodeTable
  /-- LEN (R34) -/
  len         : SymTable Byte
  /-- CODE (R35) -/
  code        : SymTable Code
  /-- ORDER (R36), indexed by rank -/
  order       : SymTable Byte
  /-- IBUF (R37): its written bytes -/
  ibuf        : Memory
  /-- OBUF (R38): its written bytes -/
  obuf        : Memory
  /-- the parameter IBUF_BYTES of this machine (R7; log 4); no step changes it -/
  ibufBytes   : Word
  /-- the parameter OBUF_BYTES of this machine (R7; log 4); no step changes it -/
  obufBytes   : Word
  /-- how many hardware resets have happened: the index of the buffers' free contents (R251; log 3) -/
  resets      : Nat
  /-- the events still to come, the next one first (R61, R261; log 1) -/
  script      : List Event
  /-- what the host's reads have returned, oldest first (R61; log 10) -/
  received    : List Datum
  deriving DecidableEq, Repr

/-- Why a step can stop with a fault: no reason. Every command ends in a next state, a failed one by the failure commit
of spec/60_exceptions.md R224, and every host access is total (spec/20_memory.md R61); so no constructor (safe; log 14). -/
inductive Fault : Type
  deriving DecidableEq, Repr

/-- Why a step can be refused. -/
inductive Refusal where
  /-- an instruction that has no meaning yet; raised by no arm of exec (safe) -/
  | notModelled (mnemonic : String)
  deriving DecidableEq, Repr

/-- STATUS after a hardware reset: 0 (R41). -/
def Status.reset : Status :=
  { done := false, fail := false, tblv := false, kind := none, dstate := .idle, lastop := 0#8 }

/-- The state right after a hardware reset (R41, spec/70_reset_and_hazards.md R250, R251): both buffers hold unspecified
bytes, so nothing is listed. The last five fields are the model's own (logs 1, 3, 4, 10). -/
def State.reset : State :=
  { status := Status.reset
    srcOff := 0#32, srcLen := 0#32, dstOff := 0#32, symN := 0#32
    dstLen := 0#32, origLen := 0#32, histTotal := 0#32, histNsym := 0#9
    nodeCount := 0#9, pqCount := 0#9, root := Config.nil, codeNsym := 0#9
    totalBitsLo := 0#32, totalBitsHi := 0#8
    hist := Vector.replicate 256 0#32
    node := Vector.replicate 511 Node.free
    len := Vector.replicate 256 0#8
    code := Vector.replicate 256 0#255
    order := Vector.replicate 256 0#8
    ibuf := [], obuf := []
    ibufBytes := Config.ibufBytes, obufBytes := Config.obufBytes
    resets := 0, script := [], received := [] }

end Sys2Proof.Machine
end

