-- ==== Sys2Proof/Machine/Flags.lean ====
section
/-! DEFINITION. STATUS: its layout (spec/10_state.md R26), the codes of its fields, and how a command's outcome sets
DONE, FAIL, KIND and LASTOP (spec/40_control.md R110, R111). These are the machine's only flags (R29). -/

namespace Sys2Proof.Machine

/-- The code of a failure kind in STATUS.KIND (spec/60_exceptions.md R220). -/
def FailKind.code : FailKind → BitVec 4
  | .invalidHeader           => 1#4
  | .inconsistentCodeLengths => 2#4
  | .truncatedPayload        => 3#4
  | .unassignedCode          => 4#4
  | .bufferOverflow          => 5#4
  | .illegalCommand          => 6#4
  | .badState                => 7#4

/-- STATUS.KIND: 0 when the last command did not fail (R220). -/
def kindCode : Option FailKind → BitVec 4
  | none   => 0#4
  | some k => k.code

/-- STATUS.DSTATE (R26): 0 Idle, 4 Done, 5 Failed. -/
def DState.code : DState → BitVec 3
  | .idle   => 0#3
  | .done   => 4#3
  | .failed => 5#3

/-- STATUS as the host reads it (R26): DONE 0, FAIL 1, TBLV 2, KIND 7:4, DSTATE 10:8, LASTOP 23:16, other bits 0 (U9). -/
def Status.toWord (t : Status) : Word :=
  (0#8 ++ t.lastop ++ 0#5 ++ t.dstate.code ++ kindCode t.kind ++ 0#1
    ++ BitVec.ofBool t.tblv ++ BitVec.ofBool t.fail ++ BitVec.ofBool t.done : BitVec 32)

/-- A command ended without failure: "STATUS.DONE <- 1; STATUS.FAIL <- 0; STATUS.KIND <- 0" (R110). -/
def Status.succeed (op : Byte) (t : Status) : Status :=
  { t with done := true, fail := false, kind := none, lastop := op }

/-- A command ended in `Fail(k)`: "STATUS.DONE <- 0; STATUS.FAIL <- 1; STATUS.KIND <- k" (R110). -/
def Status.failWith (op : Byte) (k : FailKind) (t : Status) : Status :=
  { t with done := false, fail := true, kind := some k, lastop := op }

/-- STATUS.TBLV <- v (R29). -/
def State.setTblv (v : Bool) (s : State) : State :=
  { s with status := { s.status with tblv := v } }

/-- STATUS.DSTATE <- d (R203). -/
def State.setDState (d : DState) (s : State) : State :=
  { s with status := { s.status with dstate := d } }

end Sys2Proof.Machine
end

