-- ==== Sys2Proof/Machine/Ops.lean ====
section
/-! DEFINITION. The shared operations: buffers and tables, the ways a procedure can end, the end of a command, the
failure commit (spec/60_exceptions.md R224, this machine's exception entry), and the hardware reset. There is no return
from a failure (R226). -/

namespace Sys2Proof.Machine

/-! ## Buffers -/

/-- What an unlisted address holds: no written byte. Its content is the free value that `ibufByte` and `obufByte` supply
(spec/70_reset_and_hazards.md R251, U1; log 3). -/
def Memory.unlisted : Option Byte := none

/-- The written byte at an address. -/
def Memory.lookup : Memory → Nat → Option Byte
  | [], _ => Memory.unlisted
  | (a', b') :: m, a => if a = a' then some b' else Memory.lookup m a

/-- Store one byte, keeping the addresses strictly rising. -/
def Memory.write : Memory → Nat → Byte → Memory
  | [], a, b => [(a, b)]
  | (a', b') :: m, a, b =>
    if a < a' then (a, b) :: (a', b') :: m
    else if a = a' then (a, b) :: m
    else (a', b') :: Memory.write m a b

/-- Store bytes at consecutive ascending addresses (R10, R68). -/
def Memory.writeAll (m : Memory) (a : Nat) : List Byte → Memory
  | [] => m
  | b :: bs => Memory.writeAll (Memory.write m a b) (a + 1) bs

/-- The canonical form: addresses strictly rising. -/
def Memory.wf : Memory → Bool
  | [] => true
  | [_] => true
  | (a, _) :: (a', b') :: m => decide (a < a') && Memory.wf ((a', b') :: m)

/-- `IBUF[a]`, for a below IBUF_BYTES (R10, R37): the written byte, or the free byte of this reset (R251). -/
def State.ibufByte (s : State) (a : Nat) : Byte :=
  (Memory.lookup s.ibuf a).getD (Config.ibufFree s.resets a)

/-- `OBUF[a]`, for a below OBUF_BYTES (R10, R38): the written byte, or the free byte of this reset (R251). -/
def State.obufByte (s : State) (a : Nat) : Byte :=
  (Memory.lookup s.obuf a).getD (Config.obufFree s.resets a)

/-- `IBUF[off ..+ len]` (R10). -/
def State.ibufRange (s : State) (off len : Nat) : List Byte :=
  (List.range len).map fun j => s.ibufByte (off + j)

/-- `OBUF[off ..+ len]` (R10). -/
def State.obufRange (s : State) (off len : Nat) : List Byte :=
  (List.range len).map fun j => s.obufByte (off + j)

/-- `OBUF[dst + j] <- bs[j]` for every j (R117(c)). -/
def State.writeObuf (dst : Nat) (bs : List Byte) (s : State) : State :=
  { s with obuf := Memory.writeAll s.obuf dst bs }

/-! ## Tables -/

/-- The symbol values 0 to 255 in ascending order. -/
def allSymbols : List Byte := (List.range 256).map (BitVec.ofNat 8)

/-- `T[s]`. -/
def getSym {α : Type} (t : SymTable α) (x : Byte) : α := t[x.toNat]'(x.isLt)

/-- `T[s] <- v`. -/
def setSym {α : Type} (t : SymTable α) (x : Byte) (v : α) : SymTable α := t.set x.toNat v x.isLt

/-- Write values at consecutive indices from i. -/
def fillFrom {α : Type} {n : Nat} (t : Vector α n) (i : Nat) : List α → Vector α n
  | [] => t
  | x :: xs => fillFrom (t.setIfInBounds i x) (i + 1) xs

/-- `NODE[i]`; NIL has no entry and reads as the Free one (R32). -/
def nodeAt (t : NodeTable) (i : NodeIdx) : Node := t[i.toNat]?.getD Node.free

/-- `NODE[i] <- n`; NIL has no entry, so nothing is written there (R32, R141: it never happens; log 6). -/
def setNode (t : NodeTable) (i : NodeIdx) (n : Node) : NodeTable := t.setIfInBounds i.toNat n

/-! ## Procedures (spec/40_control.md R115) -/

/-- How a procedure ends: with a value, or at its first `raise Fail(k)`, each with the state it leaves (R110, R223). -/
inductive Proc (α : Type) where
  | ok (value : α) (s : State)
  | fail (k : FailKind) (s : State)
  deriving DecidableEq, Repr

/-- Run one procedure, then another; stop at the first failure (R115). -/
def Proc.andThen {α β : Type} (p : Proc α) (f : α → State → Proc β) : Proc β :=
  match p with
  | .ok a s => f a s
  | .fail k s => .fail k s

/-! ## The end of a command -/

/-- The output commands, the ones that write DST_LEN (R224(2)). -/
def isOutput : Instr → Bool
  | .pack | .unpack | .encode | .decode => true
  | .nop | .srst | .hist | .tseed | .tmerge | .tfin | .tbuild | .clen | .ccanon | .cgen => false

/-- DECODE, the command that writes DSTATE on failure (R224(3)). -/
def isDecode : Instr → Bool
  | .decode => true
  | .nop | .srst | .hist | .tseed | .tmerge | .tfin | .tbuild | .clen | .ccanon | .cgen | .pack | .unpack | .encode => false

/-- The failure commit (R224), shared by every failing command and by illegal words: `before` is the state the command
started in, `now` the state at the `raise`. (1) STATUS; (2) DST_LEN <- 0 for an output command; (3) DSTATE <- Failed for
DECODE; (4) OBUF as it was before the command (log 16); (5) everything else as the pseudocode left it. -/
def failureCommit (op : Byte) (output decoder : Bool) (k : FailKind) (before now : State) : State :=
  { now with
    status := { now.status.failWith op k with
                dstate := if decoder then .failed else now.status.dstate }
    dstLen := if output then 0#32 else now.dstLen
    obuf := before.obuf }

/-- The end of a command (R110): the outcome goes to STATUS, a failure takes the failure commit. -/
def complete (i : Instr) (before : State) : Proc Unit → State
  | .ok _ now => { now with status := now.status.succeed (opcodeOf (encode i)) }
  | .fail k now => failureCommit (opcodeOf (encode i)) (isOutput i) (isDecode i) k before now

/-- An illegal command word (R112): "the state is unchanged except STATUS.DONE <- 0, FAIL <- 1, KIND <- 6, LASTOP <- w[7:0]". -/
def illegalCommand (w : Word) (s : State) : State :=
  failureCommit (opcodeOf w) false false .illegalCommand s s

/-! ## Hardware reset -/

/-- A hardware reset (spec/70_reset_and_hazards.md R250, R251): every register and table at its reset value, both buffers
unspecified anew. The parameters, the events still to come and what the host has read are no part of the reset state. -/
def hardReset (s : State) : State :=
  { State.reset with
    ibufBytes := s.ibufBytes, obufBytes := s.obufBytes
    resets := s.resets + 1, script := s.script, received := s.received }

end Sys2Proof.Machine
end

