-- ==== Sys2Proof/Machine/Operands.lean ====
section
/-! DEFINITION. The operand forms: offset registers with a range check (spec/20_memory.md R66), the artifact's
little-endian integers (R62), the payload's bit order (R63), and the layout of table entries read as words (R64,
spec/30_encoding.md R96, R97). Operand registers are read as unsigned naturals (R83). -/

namespace Sys2Proof.Machine

/-- "`SRC_OFF + SRC_LEN <= IBUF_BYTES`, computed over the naturals" (R66). -/
def State.inputFits (s : State) (off len : Nat) : Bool := decide (off + len ≤ s.ibufBytes.toNat)

/-- "`DST_OFF + n <= OBUF_BYTES` the same way" (R66). -/
def State.outputFits (s : State) (dst n : Nat) : Bool := decide (dst + n ≤ s.obufBytes.toNat)

/-- `LE16` (spec/00_scope.md R9). -/
def le16 (b0 b1 : Byte) : Nat := b0.toNat + 256 * b1.toNat

/-- `LE32` (spec/00_scope.md R9). -/
def le32 (b0 b1 b2 b3 : Byte) : Nat :=
  b0.toNat + 2 ^ 8 * b1.toNat + 2 ^ 16 * b2.toNat + 2 ^ 24 * b3.toNat

/-- Byte i of a value, `(v >> 8i) mod 256` (R62). -/
def leByte (v i : Nat) : Byte := BitVec.ofNat 8 (v / 2 ^ (8 * i))

/-- `ceil(t / 8)`: the bytes that hold t bits. -/
def bytesFor (t : Nat) : Nat := (t + 7) / 8

/-- `StreamBit(P, t) = (P[t div 8] >> (7 - (t mod 8))) mod 2` (R63). -/
def streamBit (p : List Byte) (t : Nat) : Bool := (p.getD (t / 8) 0#8).getLsbD (7 - t % 8)

/-- The stream bits of a payload, bit 0 first (R63). -/
def streamBits (p : List Byte) : List Bool := (List.range (8 * p.length)).map (streamBit p)

/-- A code as a bit string, most significant bit first (spec/00_scope.md R12): `c[L-1], ..., c[0]`. -/
def codeBits (l : Byte) (c : Code) : List Bool :=
  (List.range l.toNat).map fun k => c.getLsbD (l.toNat - 1 - k)

/-- Byte q of a packed bit stream: `Σ_{b=0..7} Bit(8q + b) << (7 - b)`, with `Bit(t) = 0` past the end (R171). -/
def packByte (bits : List Bool) (q : Nat) : Byte :=
  BitVec.ofNat 8
    (((List.range 8).map fun b => (bits.getD (8 * q + b) false).toNat * 2 ^ (7 - b)).sum)

/-- The first n bytes of a packed bit stream. -/
def packBytes (bits : List Bool) (n : Nat) : List Byte := (List.range n).map (packByte bits)

/-- Word w of a CODE entry: bits [32w+31 : 32w] of the 255-bit value, bit 31 of word 7 reading 0 (R64). -/
def codeWord (c : Code) (w : Nat) : Word := c.extractLsb' (32 * w) 32

/-- The NODE kind field (R96). -/
def NodeKind.code : NodeKind → BitVec 2
  | .free => 0#2
  | .leaf => 1#2
  | .internal => 2#2

/-- Word w of a NODE entry (R96). -/
def nodeWord (n : Node) : Nat → Word
  | 0 => n.freq.extractLsb' 0 32
  | 1 => (0#8 ++ n.sym ++ 0#5 ++ BitVec.ofBool n.inq ++ n.kind.code ++ n.freq.extractLsb' 32 8 : BitVec 32)
  | 2 => (0#7 ++ n.right ++ 0#7 ++ n.left : BitVec 32)
  | _ => 0#32

end Sys2Proof.Machine
end

