-- ==== Sys2Proof/Machine/Histogram.lean ====
section
/-! DEFINITION. The FrequencyAnalyzer (spec/41_histogram.md): HIST. -/

namespace Sys2Proof.Machine

/-- The counting pass of `Hist` (R120): `HIST[b] <- HIST[b] + 1` for each byte in turn. -/
def countInto (h : SymTable Word) : List Byte → SymTable Word
  | [] => h
  | b :: bs => countInto (setSym h b (getSym h b + 1#32)) bs

/-- The symbols present in a FrequencyTable, ascending (R30): those with a non-zero counter. -/
def presentSymbols (h : SymTable Word) : List Byte := allSymbols.filter fun x => getSym h x != 0#32

/-- `Hist(off, len)` (R120). -/
def procHist (off len : Nat) (s : State) : State :=
  let h := countInto (Vector.replicate 256 0#32) (s.ibufRange off len)
  { s with
    hist := h
    histTotal := BitVec.ofNat 32 len
    histNsym := BitVec.ofNat 9 (presentSymbols h).length }

/-- The body of HIST (R121): the range check comes before the table is cleared. -/
def cmdHist (s : State) : Proc Unit :=
  if s.inputFits s.srcOff.toNat s.srcLen.toNat then
    .ok () (procHist s.srcOff.toNat s.srcLen.toNat s)
  else .fail .bufferOverflow s

/-- HIST (R121). -/
def execHist (s : State) : Host.Outcome State Fault Refusal :=
  .next (complete .hist s (cmdHist s))

end Sys2Proof.Machine
end

