-- ==== Sys2Proof/Machine/TreeBuilder.lean ====
section
/-! DEFINITION. The TreeBuilder (spec/42_tree_builder.md): TSEED, TMERGE, TFIN, TBUILD. The priority queue is the set of
entries with `inq = 1` (spec/10_state.md R33). -/

namespace Sys2Proof.Machine

/-- Whether an entry is in the priority queue (R33): `NODE[i].kind != 0 and NODE[i].inq = 1`. -/
def Node.queued (n : Node) : Bool := n.kind != .free && n.inq

/-- The least queued entry of a list whose first entry has index i, against the best so far. The list is in ascending
index order and only a strictly smaller `freq` replaces the best, so ties go to the earlier index: the order of
`Key(i) = (NODE[i].freq, i)` (R130). -/
def leastFrom (best : Option (Nat × Freq)) (i : Nat) : List Node → Option (Nat × Freq)
  | [] => best
  | n :: ns =>
    let best' :=
      if n.queued then
        match best with
        | none => some (i, n.freq)
        | some (j, f) => if n.freq < f then some (i, n.freq) else some (j, f)
      else best
    leastFrom best' (i + 1) ns

/-- The i in PQ with the least Key(i), if the queue is not empty (R139). -/
def leastQueued (t : NodeTable) : Option NodeIdx :=
  (leastFrom none 0 t.toList).map fun p => BitVec.ofNat 9 p.1

/-- `NODE[m].inq <- 0`. -/
def dequeue (t : NodeTable) (m : NodeIdx) : NodeTable :=
  setNode t m { nodeAt t m with inq := false }

/-- `ExtractMin()` (R139): the least queued node, and the state without it in the queue. -/
def extractMin (s : State) : NodeIdx × State :=
  let m := (leastQueued s.node).getD Config.nil
  (m, { s with node := dequeue s.node m, pqCount := s.pqCount - 1#9 })

/-- The Leaf that `Seed` makes for a symbol (R131). -/
def seedLeaf (h : SymTable Word) (x : Byte) : Node :=
  { kind := .leaf, inq := true, sym := x, freq := (getSym h x).setWidth 40
    left := Config.nil, right := Config.nil }

/-- `Seed()` (R131): a cleared table, then one queued Leaf per present symbol, in ascending symbol order. -/
def procSeed (s : State) : State :=
  let present := presentSymbols s.hist
  { s with
    node := fillFrom (Vector.replicate 511 Node.free) 0 (present.map (seedLeaf s.hist))
    nodeCount := BitVec.ofNat 9 present.length
    pqCount := BitVec.ofNat 9 present.length
    root := Config.nil }

/-- The queued parent of two nodes (R133): the first removed is `left`, the second `right`. -/
def mergedNode (t : NodeTable) (a b : NodeIdx) : Node :=
  { kind := .internal, inq := true, sym := 0#8, freq := (nodeAt t a).freq + (nodeAt t b).freq
    left := a, right := b }

/-- `Merge()` (R133). -/
def procMerge (s : State) : State :=
  let (a, s1) := extractMin s
  let (b, s2) := extractMin s1
  { s2 with
    node := setNode s2.node s2.nodeCount (mergedNode s2.node a b)
    nodeCount := s2.nodeCount + 1#9
    pqCount := s2.pqCount + 1#9 }

/-- The synthetic root over a lone leaf (R136). -/
def syntheticRoot (t : NodeTable) (r : NodeIdx) : Node :=
  { kind := .internal, inq := false, sym := 0#8, freq := (nodeAt t r).freq
    left := r, right := Config.nil }

/-- `Fin()` (R136). -/
def procFin (s : State) : State :=
  if s.pqCount = 0#9 then s
  else
    let (r, s1) := extractMin s
    if (nodeAt s1.node r).kind = .leaf then
      { s1 with
        node := setNode s1.node s1.nodeCount (syntheticRoot s1.node r)
        nodeCount := s1.nodeCount + 1#9
        root := s1.nodeCount }
    else { s1 with root := r }

/-- `while CSR[PQ_COUNT] >= 2: Merge()` (R138), with the number of nodes queued as the bound on its rounds: each `Merge`
lowers PQ_COUNT by one, so the loop ends within it. -/
def mergeLoop : Nat → State → State
  | 0, s => s
  | n + 1, s => if 2#9 ≤ s.pqCount then mergeLoop n (procMerge s) else s

/-- `Build()` (R138). -/
def procBuild (s : State) : State :=
  let s1 := procSeed s
  procFin (mergeLoop s1.pqCount.toNat s1)

/-- TSEED (R132). -/
def execTseed (s : State) : Host.Outcome State Fault Refusal :=
  .next (complete .tseed s (.ok () (procSeed s)))

/-- The body of TMERGE (R134). -/
def cmdTmerge (s : State) : Proc Unit :=
  if s.pqCount < 2#9 then .fail .badState s else .ok () (procMerge s)

/-- TMERGE (R134). -/
def execTmerge (s : State) : Host.Outcome State Fault Refusal :=
  .next (complete .tmerge s (cmdTmerge s))

/-- The body of TFIN (R137). -/
def cmdTfin (s : State) : Proc Unit :=
  if 2#9 ≤ s.pqCount then .fail .badState s else .ok () (procFin s)

/-- TFIN (R137). -/
def execTfin (s : State) : Host.Outcome State Fault Refusal :=
  .next (complete .tfin s (cmdTfin s))

/-- TBUILD (R140). -/
def execTbuild (s : State) : Host.Outcome State Fault Refusal :=
  .next (complete .tbuild s (.ok () (procBuild s)))

end Sys2Proof.Machine
end

