-- ==== Sys2Proof/Machine/CodeTable.lean ====
section
/-! DEFINITION. The CodeTableGenerator (spec/43_code_table.md): CLEN, CCANON, CGEN. -/

namespace Sys2Proof.Machine

/-- `Visit(i, d)` (R150): the depth of every Leaf under node i, which is at distance d from the root, goes to LEN. The
first argument bounds the depth of the walk; a child's index is below its parent's (R40(c)), so NODE_MAX suffices. -/
def visit : Nat → NodeTable → NodeIdx → Nat → SymTable Byte → SymTable Byte
  | 0, _, _, _, l => l
  | fuel + 1, t, i, d, l =>
    let n := nodeAt t i
    match n.kind with
    | .free => l
    | .leaf => setSym l n.sym (BitVec.ofNat 8 d)
    | .internal =>
      let l1 := visit fuel t n.left (d + 1) l
      if n.right = Config.nil then l1 else visit fuel t n.right (d + 1) l1

/-- The LEN table that `Depth` computes from NODE and ROOT (R150). -/
def depthTable (t : NodeTable) (root : NodeIdx) : SymTable Byte :=
  if root = Config.nil then Vector.replicate 256 0#8
  else visit Config.nodeMax t root 0 (Vector.replicate 256 0#8)

/-- `Depth()` (R150). -/
def procDepth (s : State) : State :=
  { s with len := depthTable s.node s.root }.setTblv false

/-- `KraftOk(l) = ( Σ_i 2^(255 - l_i) <= 2^255 )`, exact over the naturals (R155). -/
def kraftSum (ls : List Nat) : Nat := (ls.map fun l => 2 ^ (Config.lmax - l)).sum

/-- The Kraft test (R155). -/
def kraftOk (ls : List Nat) : Bool := decide (kraftSum ls ≤ 2 ^ Config.lmax)

/-- The order of symbols by the key (LEN[s], s) (R154, spec/00_scope.md R11). -/
abbrev symLe (l : SymTable Byte) (a b : Byte) : Prop :=
  getSym l a < getSym l b ∨ (getSym l a = getSym l b ∧ a ≤ b)

/-- The list S of R154: the symbols with a non-zero length, ascending by (LEN[s], s). -/
def sortedSymbols (l : SymTable Byte) : List Byte :=
  (allSymbols.filter fun x => getSym l x != 0#8).insertionSort (symLe l)

/-- The code assignment of R154 for the symbols after the first: the previous code plus one, shifted left by the growth in
length. `prevLen` and `prev` are the previous symbol's length and code, over the naturals. -/
def assignNext (l : SymTable Byte) (prevLen prev : Nat) : List Byte → SymTable Code → SymTable Code
  | [], c => c
  | x :: xs, c =>
    let v := (prev + 1) <<< ((getSym l x).toNat - prevLen)
    assignNext l (getSym l x).toNat v xs (setSym c x (BitVec.ofNat 255 v))

/-- The code assignment of R154: the first symbol gets 0, each next one its successor's code. -/
def assignCodes (l : SymTable Byte) : List Byte → SymTable Code → SymTable Code
  | [], c => c
  | x :: xs, c => assignNext l (getSym l x).toNat 0 xs (setSym c x 0#255)

/-- `Canon()` (R154): a function of the LEN table alone. -/
def procCanon (s : State) : Proc Unit :=
  let syms := sortedSymbols s.len
  if kraftOk (syms.map fun x => (getSym s.len x).toNat) then
    .ok () ({ s with
      code := assignCodes s.len syms (Vector.replicate 256 0#255)
      order := fillFrom (Vector.replicate 256 0#8) 0 syms
      codeNsym := BitVec.ofNat 9 syms.length }.setTblv true)
  else .fail .inconsistentCodeLengths (s.setTblv false)

/-- CLEN (R151). -/
def execClen (s : State) : Host.Outcome State Fault Refusal :=
  .next (complete .clen s (.ok () (procDepth s)))

/-- CCANON (R157). -/
def execCcanon (s : State) : Host.Outcome State Fault Refusal :=
  .next (complete .ccanon s (procCanon s))

/-- CGEN (R160): `Depth()` then `Canon()`. -/
def execCgen (s : State) : Host.Outcome State Fault Refusal :=
  .next (complete .cgen s (procCanon (procDepth s)))

end Sys2Proof.Machine
end

