-- ==== Sys2Proof/Machine/Bitstream.lean ====
section
/-! DEFINITION. The BitstreamWriter and BitstreamReader (spec/44_bitstream.md): PACK, UNPACK. -/

namespace Sys2Proof.Machine

/-- `totalEncodedBits`: the sum of the symbols' code lengths (R171). -/
def totalBits (l : SymTable Byte) (xs : List Byte) : Nat := (xs.map fun x => (getSym l x).toNat).sum

/-- `Bits(s)` for each symbol in turn, concatenated (R171). -/
def symbolBits (l : SymTable Byte) (c : SymTable Code) (xs : List Byte) : List Bool :=
  xs.flatMap fun x => codeBits (getSym l x) (getSym c x)

/-- `Pack(off, len, dst)` (R171): the number of bytes written. Both checks come before the first OBUF write. -/
def procPack (off len dst : Nat) (s : State) : Proc Nat :=
  let xs := s.ibufRange off len
  if xs.any fun x => getSym s.len x == 0#8 then .fail .badState s
  else
    let t := totalBits s.len xs
    let n := bytesFor t
    if s.outputFits dst n then
      .ok n { s.writeObuf dst (packBytes (symbolBits s.len s.code xs) n) with
        totalBitsLo := BitVec.ofNat 32 t
        totalBitsHi := BitVec.ofNat 8 (t / 2 ^ 32) }
    else .fail .bufferOverflow s

/-- The body of PACK (R170). -/
def cmdPack (s : State) : Proc Unit :=
  if s.status.tblv then
    if s.inputFits s.srcOff.toNat s.srcLen.toNat then
      (procPack s.srcOff.toNat s.srcLen.toNat s.dstOff.toNat s).andThen fun n t =>
        .ok () { t with dstLen := BitVec.ofNat 32 n }
    else .fail .bufferOverflow s
  else .fail .badState s

/-- PACK (R170). -/
def execPack (s : State) : Host.Outcome State Fault Refusal :=
  .next (complete .pack s (cmdPack s))

/-- What a bit string is in the code tree (R173). -/
inductive Walk where
  | hit (x : Byte)
  | inner
  | dead
  deriving DecidableEq, Repr

/-- `Lookup(acc, n)` (R173): Match, Prefix or Dead. -/
def lookup (l : SymTable Byte) (c : SymTable Code) (acc n : Nat) : Walk :=
  match allSymbols.find? fun x => (getSym l x).toNat == n && (getSym c x).toNat == acc with
  | some x => .hit x
  | none =>
    if allSymbols.any fun x =>
        decide (n < (getSym l x).toNat) && (getSym c x).toNat >>> ((getSym l x).toNat - n) == acc
    then .inner else .dead

/-- The inner loop of `Unpack` (R174): read bits until they are a code. Answers the symbol and the bits that follow. -/
def readSymbol (l : SymTable Byte) (c : SymTable Code) : List Bool → Nat → Nat → Except FailKind (Byte × List Bool)
  | [], _, _ => .error .truncatedPayload
  | b :: bs, acc, n =>
    match lookup l c (2 * acc + b.toNat) (n + 1) with
    | .hit x => .ok (x, bs)
    | .inner => readSymbol l c bs (2 * acc + b.toNat) (n + 1)
    | .dead => .error .unassignedCode

/-- The outer loop of `Unpack` (R174): N symbols, after which no further bit is read. -/
def readSymbols (l : SymTable Byte) (c : SymTable Code) : Nat → List Bool → Except FailKind (List Byte)
  | 0, _ => .ok []
  | n + 1, bits =>
    match readSymbol l c bits 0 0 with
    | .error k => .error k
    | .ok (x, rest) =>
      match readSymbols l c n rest with
      | .error k => .error k
      | .ok xs => .ok (x :: xs)

/-- `Unpack(off, len, N, dst)` (R174): the commit is made only when all N symbols have decoded. -/
def procUnpack (off len n dst : Nat) (s : State) : Proc Nat :=
  match readSymbols s.len s.code n (streamBits (s.ibufRange off len)) with
  | .error k => .fail k s
  | .ok out => .ok n (s.writeObuf dst out)

/-- The body of UNPACK (R175). -/
def cmdUnpack (s : State) : Proc Unit :=
  if s.status.tblv then
    if s.inputFits s.srcOff.toNat s.srcLen.toNat then
      if s.outputFits s.dstOff.toNat s.symN.toNat then
        (procUnpack s.srcOff.toNat s.srcLen.toNat s.symN.toNat s.dstOff.toNat s).andThen fun n t =>
          .ok () { t with dstLen := BitVec.ofNat 32 n }
      else .fail .bufferOverflow s
    else .fail .bufferOverflow s
  else .fail .badState s

/-- UNPACK (R175). -/
def execUnpack (s : State) : Host.Outcome State Fault Refusal :=
  .next (complete .unpack s (cmdUnpack s))

end Sys2Proof.Machine
end

