-- ==== Sys2Proof/Machine/Control.lean ====
section
/-! DEFINITION. The control commands NOP and SRST (spec/40_control.md R113, R114). -/

namespace Sys2Proof.Machine

/-- `Nop(): skip` (R113). -/
def execNop (s : State) : Host.Outcome State Fault Refusal :=
  .next (complete .nop s (.ok () s))

/-- `Srst()` (R114): every engine-owned and shared register and table to its reset value. -/
def procSrst (s : State) : State :=
  { s with
    hist := Vector.replicate 256 0#32
    len := Vector.replicate 256 0#8
    code := Vector.replicate 256 0#255
    order := Vector.replicate 256 0#8
    node := Vector.replicate 511 Node.free
    dstLen := 0#32, origLen := 0#32, histTotal := 0#32, histNsym := 0#9
    nodeCount := 0#9, pqCount := 0#9, root := Config.nil, codeNsym := 0#9
    totalBitsLo := 0#32, totalBitsHi := 0#8
    status := { s.status with tblv := false, dstate := .idle } }

/-- SRST (R114). -/
def execSrst (s : State) : Host.Outcome State Fault Refusal :=
  .next (complete .srst s (.ok () (procSrst s)))

end Sys2Proof.Machine
end

