-- ==== Sys2Proof/Machine/Encoder.lean ====
section
/-! DEFINITION. The Encoder (spec/45_encoder.md): ENCODE. -/

namespace Sys2Proof.Machine

/-- The header bytes that `WriteHeader(dst, len, n)` writes (R191): magic, originalLength, symbolCount, and the symbol
table in ORDER order (spec/30_encoding.md R90 to R94). -/
def headerBytes (len n : Nat) (s : State) : List Byte :=
  Config.magic
    ++ (List.range 4).map (leByte len)
    ++ [BitVec.ofNat 8 n, BitVec.ofNat 8 (n / 256)]
    ++ (s.order.toList.take n).flatMap fun x => [x, getSym s.len x]

/-- `HeaderLen(n) = 10 + 2n` (spec/30_encoding.md R90). -/
def headerLen (n : Nat) : Nat := 10 + 2 * n

/-- `Σ_{s in 0..255} HIST[s] * LEN[s]` (R190). -/
def weightedBits (h : SymTable Word) (l : SymTable Byte) : Nat :=
  (allSymbols.map fun x => (getSym h x).toNat * (getSym l x).toNat).sum

/-- The four table procedures of ENCODE in order (R190): `Hist`, `Build`, `Depth`, `Canon`. -/
def encodeTables (off len : Nat) (s : State) : Proc Unit :=
  procCanon (procDepth (procBuild (procHist off len s)))

/-- The artifact's size once the tables are built: `10 + 2*n + ceil(T / 8)` (R190). -/
def artifactSize (t : State) : Nat :=
  headerLen t.codeNsym.toNat + bytesFor (weightedBits t.hist t.len)

/-- ENCODE after its tables are built (R190): check 2, the header, the payload, the result registers. -/
def encodeOutput (off len dst : Nat) (t : State) : Proc Unit :=
  let n := t.codeNsym.toNat
  if t.outputFits dst (artifactSize t) then
    (procPack off len (dst + headerLen n) (t.writeObuf dst (headerBytes len n t))).andThen fun _ u =>
      .ok () { u with
        origLen := BitVec.ofNat 32 len
        dstLen := BitVec.ofNat 32 (artifactSize t) }
  else .fail .bufferOverflow t

/-- The body of ENCODE (R190). -/
def cmdEncode (s : State) : Proc Unit :=
  if s.inputFits s.srcOff.toNat s.srcLen.toNat then
    (encodeTables s.srcOff.toNat s.srcLen.toNat s).andThen fun _ t =>
      encodeOutput s.srcOff.toNat s.srcLen.toNat s.dstOff.toNat t
  else .fail .bufferOverflow s

/-- ENCODE (R190). -/
def execEncode (s : State) : Host.Outcome State Fault Refusal :=
  .next (complete .encode s (cmdEncode s))

end Sys2Proof.Machine
end

