-- ==== Sys2Proof/Machine/Decoder.lean ====
section
/-! DEFINITION. The Decoder (spec/46_decoder.md): DECODE. -/

namespace Sys2Proof.Machine

/-- A parsed header: originalLength and the (symbol, length) list (R200). -/
structure Header where
  origLen : Nat
  entries : List (Byte × Byte)
  deriving DecidableEq, Repr

/-- Stage ParsingHeader after the range check (R201): at least 10 bytes, the magic, `symbolCount` at most 256, and the
whole symbol table present; each failure is InvalidHeader. -/
def parseHeader (a : List Byte) : Except FailKind Header :=
  if a.length < 10 then .error .invalidHeader
  else if a.take 4 ≠ Config.magic then .error .invalidHeader
  else
    let n := le16 (a.getD 8 0#8) (a.getD 9 0#8)
    if 256 < n then .error .invalidHeader
    else if a.length < headerLen n then .error .invalidHeader
    else .ok {
      origLen := le32 (a.getD 4 0#8) (a.getD 5 0#8) (a.getD 6 0#8) (a.getD 7 0#8)
      entries := (List.range n).map fun i => (a.getD (10 + 2 * i) 0#8, a.getD (11 + 2 * i) 0#8) }

/-- Stage ValidatingLengths (R202): no zero length, no symbol twice, and the Kraft test. -/
def lengthsValid (es : List (Byte × Byte)) : Bool :=
  (es.all fun e => e.2 != 0#8)
    && decide (es.map Prod.fst).Nodup
    && kraftOk (es.map fun e => e.2.toNat)

/-- `LEN[sym_i] <- len_i` for each entry (R200). -/
def loadLengths (l : SymTable Byte) : List (Byte × Byte) → SymTable Byte
  | [] => l
  | e :: es => loadLengths (setSym l e.1 e.2) es

/-- The table commit (R204): the header's lengths replace LEN, `Canon` rebuilds the rest, ORIG_LEN receives N. -/
def commitTable (h : Header) (s : State) : Proc Unit :=
  (procCanon { s with len := loadLengths (Vector.replicate 256 0#8) h.entries }).andThen fun _ t =>
    .ok () { t with origLen := BitVec.ofNat 32 h.origLen }

/-- Stage DecodingPayload (R205, R206): the capacity check, then `Unpack` of the rest of the artifact. -/
def decodePayload (off alen dst : Nat) (h : Header) (t : State) : Proc Unit :=
  if t.outputFits dst h.origLen then
    (procUnpack (off + headerLen h.entries.length) (alen - headerLen h.entries.length) h.origLen dst t).andThen
      fun n u => .ok () ({ u with dstLen := BitVec.ofNat 32 n }.setDState .done)
  else .fail .bufferOverflow t

/-- The body of DECODE (R200): ParsingHeader, ValidatingLengths, the table commit, DecodingPayload, Done. -/
def cmdDecode (s : State) : Proc Unit :=
  if s.inputFits s.srcOff.toNat s.srcLen.toNat then
    match parseHeader (s.ibufRange s.srcOff.toNat s.srcLen.toNat) with
    | .error k => .fail k s
    | .ok h =>
      if lengthsValid h.entries then
        (commitTable h s).andThen fun _ t => decodePayload s.srcOff.toNat s.srcLen.toNat s.dstOff.toNat h t
      else .fail .inconsistentCodeLengths s
  else .fail .bufferOverflow s

/-- DECODE (R200). -/
def execDecode (s : State) : Host.Outcome State Fault Refusal :=
  .next (complete .decode s (cmdDecode s))

end Sys2Proof.Machine
end

