-- ==== Sys2Proof/Machine/Dispatch.lean ====
section
/-! DEFINITION. What each command does: one arm per constructor of Instr, one direct call of its meaning (spec/40_control.md R110). -/

namespace Sys2Proof.Machine

def exec (i : Instr) (s : State) : Host.Outcome State Fault Refusal :=
  match i with
  -- control (40_control.md)
  | .nop => Sys2Proof.Machine.execNop s
  | .srst => Sys2Proof.Machine.execSrst s
  -- FrequencyAnalyzer (41_histogram.md)
  | .hist => Sys2Proof.Machine.execHist s
  -- TreeBuilder (42_tree_builder.md)
  | .tseed => Sys2Proof.Machine.execTseed s
  | .tmerge => Sys2Proof.Machine.execTmerge s
  | .tfin => Sys2Proof.Machine.execTfin s
  | .tbuild => Sys2Proof.Machine.execTbuild s
  -- CodeTableGenerator (43_code_table.md)
  | .clen => Sys2Proof.Machine.execClen s
  | .ccanon => Sys2Proof.Machine.execCcanon s
  | .cgen => Sys2Proof.Machine.execCgen s
  -- BitstreamWriter and BitstreamReader (44_bitstream.md)
  | .pack => Sys2Proof.Machine.execPack s
  | .unpack => Sys2Proof.Machine.execUnpack s
  -- Encoder (45_encoder.md)
  | .encode => Sys2Proof.Machine.execEncode s
  -- Decoder (46_decoder.md)
  | .decode => Sys2Proof.Machine.execDecode s

end Sys2Proof.Machine
end

