-- ==== Sys2Proof/Machine/HostAccess.lean ====
section
/-! DEFINITION. The host operations (spec/20_memory.md R60, R61): reads and writes of the eight address spaces, a CMD
write running a command (spec/40_control.md R110), and the hardware reset as an event. -/

namespace Sys2Proof.Machine

/-- A CSR as the host reads it (spec/10_state.md R23): ID is a constant (R24), CMD and the reserved indices read 0. -/
def csrRead (s : State) : Nat → Word
  | 0  => Config.idValue
  | 1  => 0#32
  | 2  => s.status.toWord
  | 3  => s.srcOff
  | 4  => s.srcLen
  | 5  => s.dstOff
  | 6  => s.symN
  | 7  => s.dstLen
  | 8  => s.origLen
  | 9  => s.histTotal
  | 10 => s.histNsym.setWidth 32
  | 11 => s.nodeCount.setWidth 32
  | 12 => s.pqCount.setWidth 32
  | 13 => s.root.setWidth 32
  | 14 => s.codeNsym.setWidth 32
  | 15 => s.totalBitsLo
  | 16 => s.totalBitsHi.setWidth 32
  | _  => 0#32

/-- `HostRead(space, index)` of a word space (R61): out of range reads 0; LEN and ORDER entries are zero-extended. -/
def hostReadWord (s : State) (space : WordSpace) (index : Nat) : Word :=
  match space with
  | .csr => csrRead s index
  | .hist => s.hist[index]?.getD 0#32
  | .len => (s.len[index]?.getD 0#8).setWidth 32
  | .code => codeWord (s.code[index / 8]?.getD 0#255) (index % 8)
  | .order => (s.order[index]?.getD 0#8).setWidth 32
  | .node =>
    match s.node[index / 4]? with
    | some n => nodeWord n (index % 4)
    | none => 0#32

/-- `HostRead(space, index)` of a buffer (R61): out of range reads 0. -/
def hostReadByte (s : State) (space : ByteSpace) (index : Nat) : Byte :=
  match space with
  | .ibuf => if index < s.ibufBytes.toNat then s.ibufByte index else 0#8
  | .obuf => if index < s.obufBytes.toNat then s.obufByte index else 0#8

/-- `Execute(w)` (spec/40_control.md R110): the command the word encodes, or the failure of an illegal word. -/
def execute (w : Word) (s : State) : Host.Outcome State Fault Refusal :=
  match decode w with
  | .command i => exec i s
  | .illegal _ => .next (illegalCommand w s)

/-- A write of a CSR that is not CMD (spec/10_state.md R23): the four host-owned registers store the word, every other
index ignores it. -/
def csrStore (s : State) (index : Nat) (v : Word) : State :=
  match index with
  | 3 => { s with srcOff := v }
  | 4 => { s with srcLen := v }
  | 5 => { s with dstOff := v }
  | 6 => { s with symN := v }
  | _ => s

/-- The index of CMD (R23). -/
def cmdIndex : Nat := 1

/-- A host write of a word space other than CSR (R60, R61): HIST stores the word; LEN stores bits [7:0] and clears TBLV
(spec/10_state.md R29, R34); CODE, ORDER, NODE and out-of-range indices ignore it. -/
def tableStore (s : State) (space : WordSpace) (index : Nat) (v : Word) : State :=
  match space with
  | .hist => { s with hist := s.hist.setIfInBounds index v }
  | .len =>
    if index < 256 then
      { s with len := s.len.setIfInBounds index (v.setWidth 8) }.setTblv false
    else s
  | .csr | .code | .order | .node => s

/-- `HostWrite(space, index, value)` of a word space (R61). A write of CMD runs a command. -/
def hostWriteWord (space : WordSpace) (index : Nat) (v : Word) (s : State) : Host.Outcome State Fault Refusal :=
  match space with
  | .csr => if index = cmdIndex then execute v s else .next (csrStore s index v)
  | .hist | .len | .code | .order | .node => .next (tableStore s space index v)

/-- `HostWrite(space, index, value)` of a buffer (R61): IBUF in range stores the byte; OBUF is read-only to the host. -/
def hostWriteByte (space : ByteSpace) (index : Nat) (v : Byte) (s : State) : State :=
  match space with
  | .ibuf =>
    if index < s.ibufBytes.toNat then { s with ibuf := Memory.write s.ibuf index v } else s
  | .obuf => s

/-- The host receives the unit it read; the machine itself does not change (R61: "No read has a side effect"). -/
def receive (d : Datum) (s : State) : State := { s with received := s.received ++ [d] }

/-- One event (R61, R250). -/
def perform (e : Event) (s : State) : Host.Outcome State Fault Refusal :=
  match e with
  | .readWord space index => .next (receive (.word (hostReadWord s space index)) s)
  | .writeWord space index v => hostWriteWord space index v s
  | .readByte space index => .next (receive (.byte (hostReadByte s space index)) s)
  | .writeByte space index v => .next (hostWriteByte space index v s)
  | .hardReset => .next (hardReset s)

/-- The CMD write that gives the machine a command word (R25). -/
def cmdWrite (w : Word) : Event := .writeWord .csr cmdIndex w

end Sys2Proof.Machine
end

