-- ==== Sys2Proof/Machine/Step.lean ====
section
/-! DEFINITION. One step: the next host operation of the script is performed, whole (spec/00_scope.md R8,
spec/20_memory.md R67, R70). -/

namespace Sys2Proof.Machine

/-- The next event of the script, taken from it and performed. With none left the engine is idle: "it does nothing until
CMD is written" (R8; log 2). -/
def step (s : State) : Host.Outcome State Fault Refusal :=
  match s.script with
  | [] => .next s
  | e :: rest => perform e { s with script := rest }

/-- The state whose next event is a CMD write of the given word (R25; log 15). -/
def State.withFetchWord (s : State) (nbits w : Nat) : State :=
  { s with script := cmdWrite (tableWord nbits w) :: s.script }

end Sys2Proof.Machine
end

