-- ==== Sys2Proof/Safety.lean ====
section
/-! DEFINITION. What a safe state is: the invariants of spec/10_state.md R26 and R40 that hold after reset and after every
step, and the words the statements use (bit strings, key order, depths). No step of this machine faults or is refused, so
a safe run is one whose states keep these invariants. -/

namespace Sys2Proof.Machine

/-! ## Outcome (R26) -/

/-- Never both DONE and FAIL, and "FAIL = 1 if and only if KIND is not 0" (R26); before the first command neither is set. -/
structure OutcomeOk (s : State) : Prop where
  not_both : ¬ (s.status.done = true ∧ s.status.fail = true)
  fail_iff : s.status.fail = true ↔ s.status.kind ≠ none

/-! ## Buffers (R37, R38) -/

/-- Both buffers are in canonical form and hold no byte outside their capacity. -/
structure BuffersOk (s : State) : Prop where
  ibuf_wf : Memory.wf s.ibuf = true
  obuf_wf : Memory.wf s.obuf = true
  ibuf_in : ∀ c ∈ s.ibuf, c.1 < s.ibufBytes.toNat
  obuf_in : ∀ c ∈ s.obuf, c.1 < s.obufBytes.toNat

/-! ## The tree (R40 a to f) -/

/-- Entry i of the NODE table, by number; past the end, the Free entry. -/
def entry (t : NodeTable) (i : Nat) : Node := t[i]?.getD Node.free

/-- Node c is the left or the right child of the Internal node p (R32). -/
abbrev IsChild (t : NodeTable) (p c : Nat) : Prop :=
  (entry t p).kind = .internal ∧
    ((entry t p).left.toNat = c ∨ ((entry t p).right ≠ Config.nil ∧ (entry t p).right.toNat = c))

/-- The k of R40(b): how many Leaf entries there are. -/
def leafCount (t : NodeTable) : Nat := t.toList.countP fun n => n.kind == .leaf

/-- |PQ| (R33). -/
def queuedCount (t : NodeTable) : Nat := t.toList.countP Node.queued

/-- The sum of the queued nodes' frequencies. -/
def queuedFreq (t : NodeTable) : Nat := ((t.toList.filter Node.queued).map fun n => n.freq.toNat).sum

/-- The tree invariant, R40(a) to (f) and the field values of R32. Beyond R40's words it says what makes them inductive:
the frequencies in the queue sum to at most k * (2^32 - 1) (R142), and while there is no root NODE_COUNT + PQ_COUNT = 2k
(R141). -/
structure TreeOk (s : State) : Prop where
  /-- (a) the entries below NODE_COUNT are nodes -/
  used : ∀ i, i < s.nodeCount.toNat → (entry s.node i).kind ≠ .free
  /-- (a) the others are Free -/
  unused : ∀ i, i < 511 → s.nodeCount.toNat ≤ i → entry s.node i = Node.free
  /-- (b) k <= 256 -/
  leaves_le : leafCount s.node ≤ 256
  /-- (b) leaves come first -/
  leaves_first : ∀ i, i < s.nodeCount.toNat → ((entry s.node i).kind = .leaf ↔ i < leafCount s.node)
  /-- (b) the leaves' symbols strictly rise -/
  syms_rise : ∀ j, j < leafCount s.node → ∀ i, i < j → (entry s.node i).sym < (entry s.node j).sym
  /-- R32: a Leaf has no child and the count of a present symbol, below 2^32 -/
  leaf_fields : ∀ i, i < s.nodeCount.toNat → (entry s.node i).kind = .leaf →
    (entry s.node i).left = Config.nil ∧ (entry s.node i).right = Config.nil ∧
    0 < (entry s.node i).freq.toNat ∧ (entry s.node i).freq.toNat < 2 ^ 32
  /-- R32, (c): an Internal node has `sym` 0 and children of smaller index, the right one perhaps NIL -/
  internal_fields : ∀ i, i < s.nodeCount.toNat → (entry s.node i).kind = .internal →
    (entry s.node i).sym = 0#8 ∧ (entry s.node i).left.toNat < i ∧
    ((entry s.node i).right ≠ Config.nil →
      (entry s.node i).right.toNat < i ∧ (entry s.node i).right ≠ (entry s.node i).left)
  /-- R136: only the synthetic root has no right child -/
  lone_root : ∀ i, i < s.nodeCount.toNat → (entry s.node i).kind = .internal → (entry s.node i).right = Config.nil →
    i = 1 ∧ s.nodeCount.toNat = 2 ∧ s.root.toNat = 1 ∧ leafCount s.node = 1 ∧
    (entry s.node i).freq = (entry s.node (entry s.node i).left.toNat).freq
  /-- (c) a node is the child of at most one node -/
  one_parent : ∀ p, p < s.nodeCount.toNat → ∀ q, q < s.nodeCount.toNat → ∀ c, c < s.nodeCount.toNat →
    IsChild s.node p c ∧ IsChild s.node q c → p = q
  /-- (c) a queued node is the child of no node -/
  queued_no_parent : ∀ p, p < s.nodeCount.toNat → ∀ c, c < s.nodeCount.toNat →
    IsChild s.node p c → (entry s.node c).inq = false
  /-- (d) an Internal node's `freq` is the exact sum of its two children's -/
  freq_sum : ∀ i, i < s.nodeCount.toNat → (entry s.node i).kind = .internal → (entry s.node i).right ≠ Config.nil →
    (entry s.node i).freq.toNat =
      (entry s.node (entry s.node i).left.toNat).freq.toNat + (entry s.node (entry s.node i).right.toNat).freq.toNat
  /-- (d), R142: the queue's frequencies stay below k * 2^32 -/
  queue_freq : queuedFreq s.node ≤ leafCount s.node * (2 ^ 32 - 1)
  /-- (e) PQ_COUNT = |PQ| -/
  queue_count : s.pqCount.toNat = queuedCount s.node
  /-- (e) PQ_COUNT <= 256 -/
  queue_le : s.pqCount.toNat ≤ 256
  /-- R141: while there is no root -/
  no_root : s.root = Config.nil → s.nodeCount.toNat + s.pqCount.toNat = 2 * leafCount s.node
  /-- R138, R141: with a root there are 2k - 1 nodes, or the two of the synthetic tree -/
  with_root : s.root ≠ Config.nil →
    s.nodeCount.toNat + 1 = 2 * leafCount s.node ∨ (s.nodeCount.toNat = 2 ∧ leafCount s.node = 1)
  /-- (f) the root is the last node, Internal, and the queue is empty -/
  root_last : s.root ≠ Config.nil →
    s.root.toNat + 1 = s.nodeCount.toNat ∧ (entry s.node s.root.toNat).kind = .internal ∧ s.pqCount = 0#9
  /-- (c), (f) the nodes without a parent are the queued ones and ROOT -/
  parents : ∀ i, i < s.nodeCount.toNat →
    (entry s.node i).inq = true ∨ i = s.root.toNat ∨ ∃ p, p < s.nodeCount.toNat ∧ IsChild s.node p i

/-- Node i is at distance d from node r, going from parent to child (R150). -/
inductive AtDepth (t : NodeTable) (r : Nat) : Nat → Nat → Prop where
  | root : AtDepth t r r 0
  | child {p c d : Nat} : AtDepth t r p d → IsChild t p c → AtDepth t r c (d + 1)

/-! ## The code table (R35, R36, R40 g) -/

/-- Code (l1, c1) is a prefix of code (l2, c2) (spec/00_scope.md R12). -/
abbrev CodePrefix (l1 c1 l2 c2 : Nat) : Prop := l1 ≤ l2 ∧ c2 >>> (l2 - l1) = c1

/-- Key order of symbols, strict: (LEN[a], a) < (LEN[b], b) (spec/00_scope.md R11). -/
abbrev KeyLt (l : SymTable Byte) (a b : Byte) : Prop :=
  getSym l a < getSym l b ∨ (getSym l a = getSym l b ∧ a < b)

/-- The symbols that have a code, ascending (R34). -/
def codedSymbols (l : SymTable Byte) : List Byte := allSymbols.filter fun x => getSym l x != 0#8

/-- The Kraft sum of a LEN table, in units of 2^-255 (spec/43_code_table.md R155). -/
def tableKraft (l : SymTable Byte) : Nat := ((codedSymbols l).map fun x => 2 ^ (255 - (getSym l x).toNat)).sum

/-- The code-table invariant: R35, R36 and R40(g), all "when TBLV = 1". -/
structure TableOk (s : State) : Prop where
  /-- R35: `CODE[s] < 2^LEN[s]` -/
  fits : s.status.tblv = true → ∀ x, getSym s.len x ≠ 0#8 →
    (getSym s.code x).toNat < 2 ^ (getSym s.len x).toNat
  /-- R35: `CODE[s] = 0` for every s with `LEN[s] = 0` -/
  absent : s.status.tblv = true → ∀ x, getSym s.len x = 0#8 → getSym s.code x = 0#255
  /-- R40(g): the Kraft inequality -/
  kraft : s.status.tblv = true → tableKraft s.len ≤ 2 ^ 255
  /-- R40(g): prefix-free -/
  prefix_free : s.status.tblv = true → ∀ x y, x ≠ y → getSym s.len x ≠ 0#8 → getSym s.len y ≠ 0#8 →
    ¬ CodePrefix (getSym s.len x).toNat (getSym s.code x).toNat (getSym s.len y).toNat (getSym s.code y).toNat
  /-- R40(g): CODE_NSYM -/
  nsym : s.status.tblv = true → s.codeNsym.toNat = (codedSymbols s.len).length
  /-- R36: the coded symbols in key order, then zeros -/
  order : s.status.tblv = true → ∃ l : List Byte,
    l.Pairwise (KeyLt s.len) ∧ (∀ x, x ∈ l ↔ getSym s.len x ≠ 0#8) ∧
    s.order.toList = l ++ List.replicate (256 - l.length) 0#8

/-! ## Sequences of commands -/

/-- The state after the commands of a list, run one after the other. -/
def execAll : List Instr → State → Option State
  | [], s => some s
  | i :: is, s =>
    match exec i s with
    | .next t => execAll is t
    | .fault _ => none
    | .refused _ => none

/-! ## The artifact presented to DECODE (R90 to R94, R200) -/

/-- `A[i]`: byte i of the artifact at SRC_OFF (R200). -/
def artByte (s : State) (i : Nat) : Byte := s.ibufByte (s.srcOff.toNat + i)

/-- `N`, the header's originalLength (R92). -/
def artOrigLen (s : State) : Nat := le32 (artByte s 4) (artByte s 5) (artByte s 6) (artByte s 7)

/-- `n`, the header's symbolCount (R93). -/
def artCount (s : State) : Nat := le16 (artByte s 8) (artByte s 9)

/-- `sym_i` (R94). -/
def artSym (s : State) (i : Nat) : Byte := artByte s (10 + 2 * i)

/-- `len_i` (R94). -/
def artLen (s : State) (i : Nat) : Byte := artByte s (11 + 2 * i)

/-- The payload's bits: the rest of the artifact (R205). -/
def artPayload (s : State) : List Bool :=
  streamBits (s.ibufRange (s.srcOff.toNat + 10 + 2 * artCount s) (s.srcLen.toNat - 10 - 2 * artCount s))

/-- None of the InvalidHeader tests of R201(1) to (4) holds. -/
abbrev HeaderOk (s : State) : Prop :=
  10 ≤ s.srcLen.toNat ∧ [artByte s 0, artByte s 1, artByte s 2, artByte s 3] = [0x48#8, 0x55#8, 0x46#8, 0x31#8] ∧
    artCount s ≤ 256 ∧ 10 + 2 * artCount s ≤ s.srcLen.toNat

/-- None of the InconsistentCodeLengths tests of R202(1) to (3) holds. -/
abbrev LengthsOk (s : State) : Prop :=
  (∀ i, i < artCount s → artLen s i ≠ 0#8) ∧
    (∀ j, j < artCount s → ∀ i, i < j → artSym s i ≠ artSym s j) ∧
    ((List.range (artCount s)).map fun i => 2 ^ (255 - (artLen s i).toNat)).sum ≤ 2 ^ 255

/-- t0 holds the table the header of s describes (R204): its lengths in LEN, 0 elsewhere, and what CCANON makes of them. -/
def HeaderTable (s t0 : State) : Prop :=
  ∃ l : SymTable Byte, (∀ i, i < artCount s → getSym l (artSym s i) = artLen s i) ∧
    (∀ x, (∀ i, i < artCount s → artSym s i ≠ x) → getSym l x = 0#8) ∧
    exec .ccanon { s with len := l } = .next t0 ∧ t0.status.done = true

/-! ## What a command leaves alone -/

/-- The host-owned registers, IBUF, the parameters and the model's own fields are as before (R27, R37, R224(6)). -/
structure SameHostSide (s t : State) : Prop where
  srcOff : t.srcOff = s.srcOff
  srcLen : t.srcLen = s.srcLen
  dstOff : t.dstOff = s.dstOff
  symN : t.symN = s.symN
  ibuf : ∀ a, t.ibufByte a = s.ibufByte a
  ibufBytes : t.ibufBytes = s.ibufBytes
  obufBytes : t.obufBytes = s.obufBytes
  resets : t.resets = s.resets
  script : t.script = s.script
  received : t.received = s.received

/-- HIST and its two registers are as before. -/
structure SameHist (s t : State) : Prop where
  hist : t.hist = s.hist
  histTotal : t.histTotal = s.histTotal
  histNsym : t.histNsym = s.histNsym

/-- NODE and its three registers are as before. -/
structure SameTree (s t : State) : Prop where
  node : t.node = s.node
  nodeCount : t.nodeCount = s.nodeCount
  pqCount : t.pqCount = s.pqCount
  root : t.root = s.root

/-- CODE, ORDER and CODE_NSYM are as before. -/
structure SameCodes (s t : State) : Prop where
  code : t.code = s.code
  order : t.order = s.order
  codeNsym : t.codeNsym = s.codeNsym

/-- TOTAL_BITS is as before. -/
structure SameTotals (s t : State) : Prop where
  lo : t.totalBitsLo = s.totalBitsLo
  hi : t.totalBitsHi = s.totalBitsHi

/-- Every OBUF byte outside the n bytes from dst is as before. -/
def SameObufOutside (dst n : Nat) (s t : State) : Prop :=
  ∀ a, ¬ (dst ≤ a ∧ a < dst + n) → t.obufByte a = s.obufByte a

end Sys2Proof.Machine
end

