-- ==== Sys2Proof/Certificates/Slice0/Obligations.lean ====
section
/-! DEFINITION. The statements for the provers, in the order of the spec's files: encoding and the step, host access and
reset, what every command does, then family by family, then the invariants. -/

open Sys2Proof Sys2Proof.Machine

/-! ## Encoding and the step -/

/-- R80: "A word is a *legal* command when `zero = 0` and `opcode` is one of the fourteen values of rule R81." -/
def Obligations.WordIsLegalIffFieldsAreLegal : Prop :=
  ∀ w : Word, (∃ i, decode w = .command i) ↔
    (w.extractLsb' 8 24 = 0#24 ∧
      w.extractLsb' 0 8 ∈ [0x00#8, 0x01#8, 0x10#8, 0x20#8, 0x21#8, 0x22#8, 0x23#8, 0x30#8, 0x31#8, 0x32#8,
        0x40#8, 0x50#8, 0x60#8, 0x70#8])

/-- R81: every command decodes from its own word. -/
def Obligations.EncodedCommandDecodesToItself : Prop :=
  ∀ i : Instr, i.wf = true → decode (encode i) = .command i

/-- R82: no other encoding executes as a command: one word per command. -/
def Obligations.CommandHasOneWord : Prop :=
  ∀ (w : Word) (i : Instr), decode w = .command i → w = encode i

/-- R81, R112: words written out from the table, one at least per unit, and illegal ones. -/
def Obligations.ListedWordsDecode : Prop :=
  decode 0x00000000#32 = .command .nop ∧ decode 0x00000001#32 = .command .srst ∧
  decode 0x00000010#32 = .command .hist ∧ decode 0x00000021#32 = .command .tmerge ∧
  decode 0x00000023#32 = .command .tbuild ∧ decode 0x00000031#32 = .command .ccanon ∧
  decode 0x00000040#32 = .command .pack ∧ decode 0x00000050#32 = .command .unpack ∧
  decode 0x00000060#32 = .command .encode ∧ decode 0x00000070#32 = .command .decode ∧
  decode 0x00000011#32 = .illegal .unassignedOpcode ∧ decode 0x000000FF#32 = .illegal .unassignedOpcode ∧
  decode 0x00000100#32 = .illegal .reservedBits ∧ decode 0x80000060#32 = .illegal .reservedBits

/-- R8, R25, R61, R67, R70, R110: the engine is idle without a host operation (that an empty script steps to the same state
is the model's choice, log 2); a step performs the next host operation, whole, whichever it is, the operation being taken
from the host's script (log 1); a CMD write of a command's word runs exactly that command. -/
def Obligations.StepRunsTheDecodedCommand : Prop :=
  ∀ s : State,
    (s.script = [] → step s = .next s) ∧
    (∀ (e : Event) (rest : List Event), s.script = e :: rest → step s = perform e { s with script := rest }) ∧
    (∀ (w : Word) (i : Instr) (rest : List Event), s.script = .writeWord .csr 1 w :: rest → decode w = .command i →
      step s = exec i { s with script := rest })

/-- R112: an illegal word changes nothing but STATUS. -/
def Obligations.IllegalWordChangesOnlyStatus : Prop :=
  ∀ (s : State) (w : Word) (rest : List Event), s.script = .writeWord .csr 1 w :: rest →
    (w.extractLsb' 8 24 ≠ 0#24 ∨
      w.extractLsb' 0 8 ∉ [0x00#8, 0x01#8, 0x10#8, 0x20#8, 0x21#8, 0x22#8, 0x23#8, 0x30#8, 0x31#8, 0x32#8,
        0x40#8, 0x50#8, 0x60#8, 0x70#8]) →
    step s = .next { s with
      script := rest
      status := { s.status with done := false, fail := true, kind := some .illegalCommand
                                lastop := w.extractLsb' 0 8 } }

/-! ## Reset and host access -/

/-- R41, R250, the column "after hardware reset", with the registers as the host reads them; the parameters and the
model's own fields are not in it. That neither buffer lists a byte is the model's form of "unspecified" (log 3). -/
def Obligations.ResetHoldsTheListedValues : Prop :=
  (hostReadWord State.reset .csr 0 = 0x31465548#32 ∧ hostReadWord State.reset .csr 2 = 0#32 ∧
    hostReadWord State.reset .csr 13 = 0x1FF#32 ∧
    ∀ i, i ≠ 0 → i ≠ 13 → hostReadWord State.reset .csr i = 0#32) ∧
  (∀ i, hostReadWord State.reset .hist i = 0#32 ∧ hostReadWord State.reset .len i = 0#32 ∧
    hostReadWord State.reset .code i = 0#32 ∧ hostReadWord State.reset .order i = 0#32) ∧
  (∀ i, i < 511 → hostReadWord State.reset .node (4 * i) = 0#32 ∧ hostReadWord State.reset .node (4 * i + 1) = 0#32 ∧
    hostReadWord State.reset .node (4 * i + 2) = 0x01FF01FF#32 ∧ hostReadWord State.reset .node (4 * i + 3) = 0#32) ∧
  State.reset.ibuf = [] ∧ State.reset.obuf = []

/-- R250, R251: a hardware reset restores every register and table, whatever the state was, and leaves every buffer byte
at the free value of the new reset (log 3); the parameters stay. -/
def Obligations.HardwareResetForgetsAllButParameters : Prop :=
  ∀ (s : State) (rest : List Event), s.script = .hardReset :: rest →
    ∃ t, step s = .next t ∧
      t = { State.reset with
            ibufBytes := s.ibufBytes, obufBytes := s.obufBytes, resets := s.resets + 1
            script := rest, received := s.received } ∧
      (∀ a, t.ibufByte a = Config.ibufFree (s.resets + 1) a) ∧ (∀ a, t.obufByte a = Config.obufFree (s.resets + 1) a)

/-- R61: "No read has a side effect": a host read returns its unit (to the model's `received`, log 10) and changes nothing
else. The unit in range is the register, table entry (LEN, ORDER and the narrower registers zero-extended) or buffer byte at
that index (R23, R30, R34, R36, R37, R38; the words of STATUS, CODE and NODE have statements of their own); "An access whose
index lies outside the space's range ... such a read returns 0". -/
def Obligations.HostReadsHaveNoSideEffect : Prop :=
  ∀ (s : State) (i : Nat),
    (∀ sp, perform (.readWord sp i) s = .next { s with received := s.received ++ [.word (hostReadWord s sp i)] }) ∧
    (∀ sp, perform (.readByte sp i) s = .next { s with received := s.received ++ [.byte (hostReadByte s sp i)] }) ∧
    (∀ x : Byte, hostReadWord s .hist x.toNat = getSym s.hist x ∧
      (hostReadWord s .len x.toNat).toNat = (getSym s.len x).toNat ∧
      (hostReadWord s .order x.toNat).toNat = (getSym s.order x).toNat) ∧
    (hostReadWord s .csr 0 = 0x31465548#32 ∧ hostReadWord s .csr 1 = 0#32 ∧
      hostReadWord s .csr 3 = s.srcOff ∧ hostReadWord s .csr 4 = s.srcLen ∧ hostReadWord s .csr 5 = s.dstOff ∧
      hostReadWord s .csr 6 = s.symN ∧ hostReadWord s .csr 7 = s.dstLen ∧ hostReadWord s .csr 8 = s.origLen ∧
      hostReadWord s .csr 9 = s.histTotal ∧ (hostReadWord s .csr 10).toNat = s.histNsym.toNat ∧
      (hostReadWord s .csr 11).toNat = s.nodeCount.toNat ∧ (hostReadWord s .csr 12).toNat = s.pqCount.toNat ∧
      (hostReadWord s .csr 13).toNat = s.root.toNat ∧ (hostReadWord s .csr 14).toNat = s.codeNsym.toNat ∧
      hostReadWord s .csr 15 = s.totalBitsLo ∧ (hostReadWord s .csr 16).toNat = s.totalBitsHi.toNat) ∧
    (i < s.ibufBytes.toNat → hostReadByte s .ibuf i = s.ibufByte i) ∧
    (i < s.obufBytes.toNat → hostReadByte s .obuf i = s.obufByte i) ∧
    (17 ≤ i → hostReadWord s .csr i = 0#32) ∧
    (256 ≤ i → hostReadWord s .hist i = 0#32 ∧ hostReadWord s .len i = 0#32 ∧ hostReadWord s .order i = 0#32) ∧
    (2048 ≤ i → hostReadWord s .code i = 0#32) ∧ (2044 ≤ i → hostReadWord s .node i = 0#32) ∧
    (s.ibufBytes.toNat ≤ i → hostReadByte s .ibuf i = 0#8) ∧ (s.obufBytes.toNat ≤ i → hostReadByte s .obuf i = 0#8)

/-- R23, R24: the access rights of the CSRs: ID is constant, CMD reads 0, the host-owned registers store the word, the
others and the reserved indices ignore writes, reserved indices read 0. -/
def Obligations.CsrAccessRights : Prop :=
  ∀ (s : State) (v : Word),
    hostReadWord s .csr 0 = 0x31465548#32 ∧ hostReadWord s .csr 1 = 0#32 ∧
    (∀ i, 17 ≤ i → hostReadWord s .csr i = 0#32) ∧
    (∀ i, i ≠ 1 → i < 3 ∨ 7 ≤ i → perform (.writeWord .csr i v) s = .next s) ∧
    (∀ i, 3 ≤ i → i ≤ 6 → ∃ t, perform (.writeWord .csr i v) s = .next t ∧ hostReadWord t .csr i = v ∧
      (∀ j, j ≠ i → hostReadWord t .csr j = hostReadWord s .csr j) ∧
      t.status = s.status ∧ SameHist s t ∧ SameTree s t ∧ t.len = s.len ∧ SameCodes s t ∧
      t.ibuf = s.ibuf ∧ t.obuf = s.obuf)

/-- R26: the layout of STATUS as the host reads it. -/
def Obligations.StatusWordLayout : Prop :=
  ∀ s : State,
    let w := hostReadWord s .csr 2
    w.getLsbD 0 = s.status.done ∧ w.getLsbD 1 = s.status.fail ∧ w.getLsbD 2 = s.status.tblv ∧
    w.getLsbD 3 = false ∧
    (w.extractLsb' 4 4).toNat = (match s.status.kind with
      | none => 0
      | some .invalidHeader => 1 | some .inconsistentCodeLengths => 2 | some .truncatedPayload => 3
      | some .unassignedCode => 4 | some .bufferOverflow => 5 | some .illegalCommand => 6 | some .badState => 7) ∧
    (w.extractLsb' 8 3).toNat = (match s.status.dstate with | .idle => 0 | .done => 4 | .failed => 5) ∧
    w.extractLsb' 11 5 = 0#5 ∧ w.extractLsb' 16 8 = s.status.lastop ∧ w.extractLsb' 24 8 = 0#8

/-- R29, R34, R61: a host write of a LEN entry stores bits [7:0] and clears TBLV, whatever the value; nothing else
changes, and HIST writes store the whole word. -/
def Obligations.TableWritesStoreOneEntry : Prop :=
  ∀ (s : State) (v : Word) (x : Byte),
    (∃ t, perform (.writeWord .len x.toNat v) s = .next t ∧ getSym t.len x = v.extractLsb' 0 8 ∧
      (∀ y, y ≠ x → getSym t.len y = getSym s.len y) ∧
      t = { s with len := t.len, status := { s.status with tblv := false } }) ∧
    (∃ t, perform (.writeWord .hist x.toNat v) s = .next t ∧ getSym t.hist x = v ∧
      (∀ y, y ≠ x → getSym t.hist y = getSym s.hist y) ∧ t = { s with hist := t.hist }) ∧
    (∀ i, perform (.writeWord .code i v) s = .next s ∧ perform (.writeWord .order i v) s = .next s ∧
      perform (.writeWord .node i v) s = .next s) ∧
    (∀ i, 256 ≤ i → perform (.writeWord .hist i v) s = .next s ∧ perform (.writeWord .len i v) s = .next s)

/-- R37, R38, R61: the host writes one byte of IBUF, in range, and no byte of OBUF. -/
def Obligations.BufferWritesStoreOneByte : Prop :=
  ∀ (s : State) (a : Nat) (b : Byte),
    (a < s.ibufBytes.toNat → ∃ t, perform (.writeByte .ibuf a b) s = .next t ∧ hostReadByte t .ibuf a = b ∧
      (∀ a', a' ≠ a → t.ibufByte a' = s.ibufByte a') ∧ t = { s with ibuf := t.ibuf }) ∧
    (s.ibufBytes.toNat ≤ a → perform (.writeByte .ibuf a b) s = .next s) ∧
    perform (.writeByte .obuf a b) s = .next s

/-- R64: "word w of a CODE entry holds bits [32w+31 : 32w] of the 255-bit value (w = 0 .. 7; bit 31 of word 7 reads 0)". -/
def Obligations.CodeEntryIsEightWords : Prop :=
  ∀ (s : State) (x : Byte),
    ((List.range 8).map fun w => (hostReadWord s .code (8 * x.toNat + w)).toNat * 2 ^ (32 * w)).sum
      = (getSym s.code x).toNat

/-- R96: the four words of a NODE entry. -/
def Obligations.NodeEntryIsFourWords : Prop :=
  ∀ (s : State) (i : Nat), i < 511 →
    let n := entry s.node i
    let w0 := hostReadWord s .node (4 * i)
    let w1 := hostReadWord s .node (4 * i + 1)
    let w2 := hostReadWord s .node (4 * i + 2)
    w0 = n.freq.extractLsb' 0 32 ∧ w1.extractLsb' 0 8 = n.freq.extractLsb' 32 8 ∧
    (w1.extractLsb' 8 2).toNat = (match n.kind with | .free => 0 | .leaf => 1 | .internal => 2) ∧
    w1.getLsbD 10 = n.inq ∧ w1.extractLsb' 11 5 = 0#5 ∧ w1.extractLsb' 16 8 = n.sym ∧ w1.extractLsb' 24 8 = 0#8 ∧
    w2.extractLsb' 0 9 = n.left ∧ w2.extractLsb' 9 7 = 0#7 ∧ w2.extractLsb' 16 9 = n.right ∧
    w2.extractLsb' 25 7 = 0#7 ∧ hostReadWord s .node (4 * i + 3) = 0#32

/-! ## What every command does -/

/-- R26, R110, R111: every command completes; "After any command exactly one of DONE and FAIL is 1, and FAIL = 1 if and
only if KIND is not 0"; LASTOP is its opcode. -/
def Obligations.EveryCommandReportsItsOutcome : Prop :=
  ∀ (i : Instr) (s : State), ∃ t, exec i s = .next t ∧
    (t.status.done = !t.status.fail) ∧ (t.status.fail = true ↔ t.status.kind ≠ none) ∧
    t.status.lastop = (encode i).extractLsb' 0 8

/-- R27, R37, R224(6): no command writes the operand registers or IBUF. -/
def Obligations.CommandsKeepTheHostSide : Prop :=
  ∀ (i : Instr) (s t : State), exec i s = .next t → SameHostSide s t

/-- R111, R226: the previous outcome alters no later command: with other DONE, FAIL, KIND and LASTOP a command gives the
same next state. -/
def Obligations.PreviousOutcomeIsForgotten : Prop :=
  ∀ (i : Instr) (s : State) (old : Status), old.tblv = s.status.tblv → old.dstate = s.status.dstate →
    exec i { s with status := old } = exec i s

/-- R224 (1) to (4) and (6), R38: what a failed command leaves: DONE 0, OBUF as before, DST_LEN 0 for an output command and
unchanged for the others, DSTATE Failed for DECODE and unchanged for the others, ORIG_LEN unchanged but for DECODE,
TOTAL_BITS unchanged. -/
def Obligations.FailedCommandLeavesNoOutput : Prop :=
  ∀ (i : Instr) (s t : State), exec i s = .next t → t.status.fail = true →
    t.status.done = false ∧ (∀ a, t.obufByte a = s.obufByte a) ∧ SameHostSide s t ∧
    t.dstLen = (if i = .pack ∨ i = .unpack ∨ i = .encode ∨ i = .decode then 0#32 else s.dstLen) ∧
    t.status.dstate = (if i = .decode then .failed else s.status.dstate) ∧
    (i ≠ .decode → t.origLen = s.origLen) ∧ SameTotals s t

/-- R235: which command can raise which kind, in states whose tree is one the TreeBuilder makes. -/
def Obligations.FailureKindsByCommand : Prop :=
  ∀ (i : Instr) (s t : State) (k : FailKind), TreeOk s → exec i s = .next t → t.status.kind = some k →
    match i with
    | .nop | .srst | .tseed | .tbuild | .clen | .cgen => False
    | .hist => k = .bufferOverflow
    | .tmerge | .tfin => k = .badState
    | .ccanon => k = .inconsistentCodeLengths
    | .pack => k = .bufferOverflow ∨ k = .badState
    | .unpack => k = .truncatedPayload ∨ k = .unassignedCode ∨ k = .bufferOverflow ∨ k = .badState
    | .encode => k = .bufferOverflow
    | .decode => k = .invalidHeader ∨ k = .inconsistentCodeLengths ∨ k = .truncatedPayload ∨ k = .unassignedCode ∨
        k = .bufferOverflow

/-! ## Control -/

/-- R113: NOP changes nothing but DONE, FAIL, KIND and LASTOP. -/
def Obligations.NopChangesOnlyTheOutcome : Prop :=
  decode 0x00000000#32 = .command .nop ∧
  ∀ s : State, exec .nop s =
    .next { s with status := { s.status with done := true, fail := false, kind := none, lastop := 0x00#8 } }

/-- R114: SRST: every engine-owned and shared item at its reset value, the rest as before. -/
def Obligations.SrstRestoresResetValues : Prop :=
  decode 0x00000001#32 = .command .srst ∧
  ∀ s : State, ∃ t, exec .srst s = .next t ∧ hostReadWord t .csr 2 = 0x00010001#32 ∧
    t.status = { done := true, fail := false, tblv := false, kind := none, dstate := .idle, lastop := 0x01#8 } ∧
    (∀ x, getSym t.hist x = 0#32 ∧ getSym t.len x = 0#8 ∧ getSym t.code x = 0#255 ∧ getSym t.order x = 0#8) ∧
    (∀ i, i < 511 → t.node[i]? =
      some { kind := .free, inq := false, sym := 0#8, freq := 0#40, left := 0x1FF#9, right := 0x1FF#9 }) ∧
    t.hist = State.reset.hist ∧ t.node = State.reset.node ∧ t.len = State.reset.len ∧ t.code = State.reset.code ∧
    t.order = State.reset.order ∧ t.dstLen = 0#32 ∧ t.origLen = 0#32 ∧ t.histTotal = 0#32 ∧ t.histNsym = 0#9 ∧
    t.nodeCount = 0#9 ∧ t.pqCount = 0#9 ∧ t.root = 0x1FF#9 ∧ t.codeNsym = 0#9 ∧ t.totalBitsLo = 0#32 ∧
    t.totalBitsHi = 0#8 ∧ SameHostSide s t ∧ (∀ a, t.obufByte a = s.obufByte a)

/-! ## FrequencyAnalyzer -/

/-- R120, R121: HIST counts the input bytes: "Afterwards `HIST[s]` is the number of j in 0 .. len with
`IBUF[off + j] = s`, for every s". -/
def Obligations.HistCountsTheInputBytes : Prop :=
  ∀ s : State, s.srcOff.toNat + s.srcLen.toNat ≤ s.ibufBytes.toNat →
    ∃ t, exec .hist s = .next t ∧
      t.status = { s.status with done := true, fail := false, kind := none, lastop := 0x10#8 } ∧
      (∀ x, (getSym t.hist x).toNat = (s.ibufRange s.srcOff.toNat s.srcLen.toNat).count x) ∧
      t.histTotal = s.srcLen ∧
      t.histNsym.toNat = (allSymbols.filter fun x => getSym t.hist x != 0#32).length

/-- R122: "after `Hist` the sum of all counters equals HIST_TOTAL and every counter is at most HIST_TOTAL". -/
def Obligations.HistCountersSumToHistTotal : Prop :=
  ∀ s t : State, s.srcOff.toNat + s.srcLen.toNat ≤ s.ibufBytes.toNat → exec .hist s = .next t →
    (allSymbols.map fun x => (getSym t.hist x).toNat).sum = t.histTotal.toNat ∧
    ∀ x, getSym t.hist x ≤ t.histTotal

/-- R66, R121: an input range that does not lie in IBUF, over the naturals: "a failed HIST changes nothing but STATUS". -/
def Obligations.HistRangeFailureChangesOnlyStatus : Prop :=
  ∀ s : State, s.ibufBytes.toNat < s.srcOff.toNat + s.srcLen.toNat →
    exec .hist s = .next { s with
      status := { s.status with done := false, fail := true, kind := some .bufferOverflow, lastop := 0x10#8 } }

/-- R74, R28, R29: HIST and the TreeBuilder commands leave LEN, the codes, OBUF, the output registers, TBLV and DSTATE;
HIST leaves the tree, the TreeBuilder leaves HIST. -/
def Obligations.FrameOfHistAndTreeCommands : Prop :=
  ∀ (i : Instr) (s t : State), i ∈ [Instr.hist, .tseed, .tmerge, .tfin, .tbuild] → exec i s = .next t →
    t.len = s.len ∧ SameCodes s t ∧ (∀ a, t.obufByte a = s.obufByte a) ∧ t.dstLen = s.dstLen ∧
    t.origLen = s.origLen ∧ SameTotals s t ∧ t.status.tblv = s.status.tblv ∧ t.status.dstate = s.status.dstate ∧
    SameHostSide s t ∧ (i = .hist → SameTree s t) ∧ (i ≠ .hist → SameHist s t)

/-! ## TreeBuilder -/

/-- R131, R132: TSEED: one queued Leaf per symbol with a non-zero counter, in ascending symbol order, and no other node. -/
def Obligations.TseedQueuesOneLeafPerSymbol : Prop :=
  ∀ s : State, ∃ (t : State) (xs : List Byte), exec .tseed s = .next t ∧
    t.status = { s.status with done := true, fail := false, kind := none, lastop := 0x20#8 } ∧
    xs.Pairwise (· < ·) ∧ (∀ x, x ∈ xs ↔ getSym s.hist x ≠ 0#32) ∧
    t.nodeCount.toNat = xs.length ∧ t.pqCount.toNat = xs.length ∧ t.root = 0x1FF#9 ∧
    (∀ (i : Nat) (x : Byte), xs[i]? = some x → entry t.node i =
      { kind := .leaf, inq := true, sym := x, freq := (getSym s.hist x).setWidth 40, left := 0x1FF#9, right := 0x1FF#9 }) ∧
    (∀ i, xs.length ≤ i → entry t.node i = Node.free)

/-- R130, R133, R134, R139: TMERGE with two or more queued nodes: the least node a and the least of the rest b, by
(freq, index), leave the queue; their parent, `left` = a, `right` = b, is queued at index NODE_COUNT. -/
def Obligations.TmergeJoinsTheTwoLeast : Prop :=
  ∀ s : State, TreeOk s → 2 ≤ s.pqCount.toNat →
    ∃ (t : State) (a b : Nat), exec .tmerge s = .next t ∧
      t.status = { s.status with done := true, fail := false, kind := none, lastop := 0x21#8 } ∧
      a < s.nodeCount.toNat ∧ b < s.nodeCount.toNat ∧ a ≠ b ∧
      (entry s.node a).queued = true ∧ (entry s.node b).queued = true ∧
      (∀ i, (entry s.node i).queued = true → i ≠ a →
        (entry s.node a).freq < (entry s.node i).freq ∨ ((entry s.node a).freq = (entry s.node i).freq ∧ a < i)) ∧
      (∀ i, (entry s.node i).queued = true → i ≠ a → i ≠ b →
        (entry s.node b).freq < (entry s.node i).freq ∨ ((entry s.node b).freq = (entry s.node i).freq ∧ b < i)) ∧
      entry t.node a = { entry s.node a with inq := false } ∧ entry t.node b = { entry s.node b with inq := false } ∧
      (entry t.node s.nodeCount.toNat).kind = .internal ∧ (entry t.node s.nodeCount.toNat).inq = true ∧
      (entry t.node s.nodeCount.toNat).sym = 0#8 ∧
      (entry t.node s.nodeCount.toNat).freq.toNat = (entry s.node a).freq.toNat + (entry s.node b).freq.toNat ∧
      (entry t.node s.nodeCount.toNat).left.toNat = a ∧ (entry t.node s.nodeCount.toNat).right.toNat = b ∧
      (∀ i, i ≠ a → i ≠ b → i ≠ s.nodeCount.toNat → entry t.node i = entry s.node i) ∧
      t.nodeCount.toNat = s.nodeCount.toNat + 1 ∧ t.pqCount.toNat + 1 = s.pqCount.toNat ∧ t.root = s.root

/-- R134, R137: TMERGE with fewer than two queued nodes and TFIN with two or more fail with BadState: "nothing but STATUS
changes". -/
def Obligations.TmergeAndTfinBadState : Prop :=
  ∀ s : State,
    (s.pqCount.toNat < 2 → exec .tmerge s = .next { s with
      status := { s.status with done := false, fail := true, kind := some .badState, lastop := 0x21#8 } }) ∧
    (2 ≤ s.pqCount.toNat → exec .tfin s = .next { s with
      status := { s.status with done := false, fail := true, kind := some .badState, lastop := 0x22#8 } })

/-- R136, R137: TFIN with nothing queued changes only the outcome; with one queued Internal node it records the root; with
one queued Leaf it builds the synthetic root over it. -/
def Obligations.TfinMakesTheRoot : Prop :=
  ∀ s : State, TreeOk s → s.pqCount.toNat ≤ 1 →
    ∃ t, exec .tfin s = .next t ∧
      t.status = { s.status with done := true, fail := false, kind := none, lastop := 0x22#8 } ∧ t.pqCount = 0#9 ∧
      (s.pqCount = 0#9 → SameTree s t) ∧
      (s.pqCount = 1#9 → ∃ r, r < s.nodeCount.toNat ∧ (entry s.node r).queued = true ∧
        entry t.node r = { entry s.node r with inq := false } ∧
        ((entry s.node r).kind = .internal → t.root.toNat = r ∧ t.nodeCount = s.nodeCount ∧
          ∀ i, i ≠ r → entry t.node i = entry s.node i) ∧
        ((entry s.node r).kind = .leaf → r = 0 ∧ s.nodeCount = 1#9 ∧ t.nodeCount = 2#9 ∧ t.root = 1#9 ∧
          entry t.node 1 = { kind := .internal, inq := false, sym := 0#8, freq := (entry s.node 0).freq
                             left := 0#9, right := 0x1FF#9 } ∧
          ∀ i, i ≠ 0 → i ≠ 1 → entry t.node i = entry s.node i))

/-- R138, R140: TBUILD never fails; with k present symbols: k = 0 gives no node and ROOT = NIL; k = 1 two nodes and
ROOT = 1; k >= 2 gives 2k - 1 nodes and ROOT = 2k - 2, whose `freq` is the sum of all counters (R142). -/
def Obligations.TbuildNodeCountAndRoot : Prop :=
  ∀ s : State, ∃ t, exec .tbuild s = .next t ∧
    t.status = { s.status with done := true, fail := false, kind := none, lastop := 0x23#8 } ∧ t.pqCount = 0#9 ∧
    ((presentSymbols s.hist).length = 0 → t.nodeCount = 0#9 ∧ t.root = 0x1FF#9) ∧
    ((presentSymbols s.hist).length = 1 → t.nodeCount = 2#9 ∧ t.root = 1#9) ∧
    (2 ≤ (presentSymbols s.hist).length →
      t.nodeCount.toNat = 2 * (presentSymbols s.hist).length - 1 ∧
      t.root.toNat = 2 * (presentSymbols s.hist).length - 2 ∧
      (entry t.node t.root.toNat).freq.toNat = (allSymbols.map fun x => (getSym s.hist x).toNat).sum)

/-- R140: TBUILD's "result equals that of the command sequence TSEED, TMERGE repeated while PQ_COUNT >= 2, TFIN, except for
LASTOP": with k present symbols the sequence has k - 1 merges (R138). -/
def Obligations.TbuildEqualsTheSequence : Prop :=
  ∀ s : State, ∃ t,
    execAll (.tseed :: List.replicate ((presentSymbols s.hist).length - 1) .tmerge ++ [.tfin]) s = some t ∧
    exec .tbuild s = .next { t with status := { t.status with lastop := 0x23#8 } }

/-- R40(f), R153: in a finished tree every node is reachable from ROOT, at a distance of at most 255. -/
def Obligations.RootReachesEveryNode : Prop :=
  ∀ s : State, TreeOk s → s.root ≠ 0x1FF#9 →
    ∀ i, i < s.nodeCount.toNat → ∃ d, d ≤ 255 ∧ AtDepth s.node s.root.toNat i d

/-! ## CodeTableGenerator -/

/-- R150, R151: CLEN writes each Leaf's depth: with ROOT = NIL the whole LEN table is 0, else LEN of a Leaf's symbol is its
distance from ROOT, at least 1, and every other entry is 0; TBLV is cleared. -/
def Obligations.ClenWritesLeafDepths : Prop :=
  ∀ s : State, TreeOk s → ∃ t, exec .clen s = .next t ∧
    t.status = { s.status with done := true, fail := false, kind := none, tblv := false, lastop := 0x30#8 } ∧
    (s.root = 0x1FF#9 → ∀ x, getSym t.len x = 0#8) ∧
    (s.root ≠ 0x1FF#9 →
      (∀ i d, i < s.nodeCount.toNat → (entry s.node i).kind = .leaf → AtDepth s.node s.root.toNat i d →
        1 ≤ d ∧ (getSym t.len (entry s.node i).sym).toNat = d) ∧
      (∀ x, (∀ i, i < s.nodeCount.toNat → (entry s.node i).kind = .leaf → (entry s.node i).sym ≠ x) →
        getSym t.len x = 0#8))

/-- R154 to R157: CCANON on lengths that meet the Kraft inequality: ORDER lists the coded symbols in key order and then
zeros, CODE holds the closed form of R156(a), `c_i = Σ_{j<i} 2^(L_i - L_j)`, and 0 for the others. -/
def Obligations.CcanonAssignsCanonicalCodes : Prop :=
  ∀ s : State, tableKraft s.len ≤ 2 ^ 255 →
    ∃ (t : State) (l : List Byte), exec .ccanon s = .next t ∧
      t.status = { s.status with done := true, fail := false, kind := none, tblv := true, lastop := 0x31#8 } ∧
      l.Pairwise (KeyLt s.len) ∧ (∀ x, x ∈ l ↔ getSym s.len x ≠ 0#8) ∧
      t.order.toList = l ++ List.replicate (256 - l.length) 0#8 ∧ t.codeNsym.toNat = l.length ∧
      (∀ x, getSym s.len x = 0#8 → getSym t.code x = 0#255) ∧
      (∀ x, getSym s.len x ≠ 0#8 → (getSym t.code x).toNat =
        (((codedSymbols s.len).filter fun y => decide (KeyLt s.len y x)).map fun y =>
          2 ^ ((getSym s.len x).toNat - (getSym s.len y).toNat)).sum)

/-- R154, R157: CCANON on lengths that violate the Kraft inequality fails with InconsistentCodeLengths and changes only
STATUS, TBLV to 0. -/
def Obligations.CcanonKraftFailure : Prop :=
  ∀ s : State, 2 ^ 255 < tableKraft s.len →
    exec .ccanon s = .next { s with
      status := { s.status with done := false, fail := true, kind := some .inconsistentCodeLengths, tblv := false
                                lastop := 0x31#8 } }

/-- R159, R160: on a tree the TreeBuilder made, the lengths meet the Kraft inequality, so CGEN cannot fail; its result is
that of CLEN followed by CCANON, except for LASTOP. -/
def Obligations.CgenNeverFailsOnABuiltTree : Prop :=
  ∀ s : State, TreeOk s → ∃ t, exec .cgen s = .next t ∧
    t.status = { s.status with done := true, fail := false, kind := none, tblv := true, lastop := 0x32#8 } ∧
    tableKraft t.len ≤ 2 ^ 255 ∧
    ∃ u, execAll [.clen, .ccanon] s = some u ∧ t = { u with status := { u.status with lastop := 0x32#8 } }

/-- R74, R28: the CodeTableGenerator leaves HIST, the tree, OBUF, the output registers and DSTATE; CLEN leaves the codes,
CCANON leaves LEN. -/
def Obligations.FrameOfCodeTableCommands : Prop :=
  ∀ (i : Instr) (s t : State), i ∈ [Instr.clen, .ccanon, .cgen] → exec i s = .next t →
    SameHist s t ∧ SameTree s t ∧ (∀ a, t.obufByte a = s.obufByte a) ∧ t.dstLen = s.dstLen ∧
    t.origLen = s.origLen ∧ SameTotals s t ∧ t.status.dstate = s.status.dstate ∧ SameHostSide s t ∧
    (i = .clen → SameCodes s t) ∧ (i = .ccanon → t.len = s.len)

/-! ## BitstreamWriter and BitstreamReader -/

/-- R170, R171, R63: PACK of coded symbols that fit: the stream bits of the output are the symbols' codes in input order,
each most significant bit first, then zero padding; DST_LEN = ceil(T / 8), TOTAL_BITS = T. -/
def Obligations.PackWritesCodesMsbFirst : Prop :=
  ∀ s : State, s.status.tblv = true → s.srcOff.toNat + s.srcLen.toNat ≤ s.ibufBytes.toNat →
    (∀ x ∈ s.ibufRange s.srcOff.toNat s.srcLen.toNat, getSym s.len x ≠ 0#8) →
    s.dstOff.toNat + (totalBits s.len (s.ibufRange s.srcOff.toNat s.srcLen.toNat) + 7) / 8 ≤ s.obufBytes.toNat →
    ∃ t, exec .pack s = .next t ∧
      t.status = { s.status with done := true, fail := false, kind := none, lastop := 0x40#8 } ∧
      t.dstLen.toNat = (totalBits s.len (s.ibufRange s.srcOff.toNat s.srcLen.toNat) + 7) / 8 ∧
      t.totalBitsLo.toNat + 2 ^ 32 * t.totalBitsHi.toNat
        = totalBits s.len (s.ibufRange s.srcOff.toNat s.srcLen.toNat) ∧
      streamBits (t.obufRange s.dstOff.toNat t.dstLen.toNat) =
        symbolBits s.len s.code (s.ibufRange s.srcOff.toNat s.srcLen.toNat) ++
          List.replicate (8 * t.dstLen.toNat - totalBits s.len (s.ibufRange s.srcOff.toNat s.srcLen.toNat)) false

/-- R170, R224: PACK's failures in the order they are tested, each changing only STATUS and DST_LEN. -/
def Obligations.PackFailuresInOrder : Prop :=
  ∀ s : State,
    let failed (k : FailKind) : State := { s with
      status := { s.status with done := false, fail := true, kind := some k, lastop := 0x40#8 }, dstLen := 0#32 }
    let xs := s.ibufRange s.srcOff.toNat s.srcLen.toNat
    let inRange := s.srcOff.toNat + s.srcLen.toNat ≤ s.ibufBytes.toNat
    (s.status.tblv = false → exec .pack s = .next (failed .badState)) ∧
    (s.status.tblv = true → ¬ inRange → exec .pack s = .next (failed .bufferOverflow)) ∧
    (s.status.tblv = true → inRange → (∃ x ∈ xs, getSym s.len x = 0#8) → exec .pack s = .next (failed .badState)) ∧
    (s.status.tblv = true → inRange → (∀ x ∈ xs, getSym s.len x ≠ 0#8) →
      s.obufBytes.toNat < s.dstOff.toNat + (totalBits s.len xs + 7) / 8 →
      exec .pack s = .next (failed .bufferOverflow))

/-- R173 to R175: UNPACK of a payload that begins with the codes of SYM_N symbols emits exactly those symbols, whatever
bits follow (R175(a), (c)). -/
def Obligations.UnpackEmitsTheEncodedSymbols : Prop :=
  ∀ (s : State) (out : List Byte), TableOk s → s.status.tblv = true →
    s.srcOff.toNat + s.srcLen.toNat ≤ s.ibufBytes.toNat → s.dstOff.toNat + s.symN.toNat ≤ s.obufBytes.toNat →
    out.length = s.symN.toNat → (∀ x ∈ out, getSym s.len x ≠ 0#8) →
    symbolBits s.len s.code out <+: streamBits (s.ibufRange s.srcOff.toNat s.srcLen.toNat) →
    ∃ t, exec .unpack s = .next t ∧
      t.status = { s.status with done := true, fail := false, kind := none, lastop := 0x50#8 } ∧
      t.dstLen = s.symN ∧ t.obufRange s.dstOff.toNat s.symN.toNat = out

/-- R174, R175, R224: UNPACK's failures in the order they are tested, each changing only STATUS and DST_LEN: the two range
checks before any bit is read, then the first of TruncatedPayload (the bits run out inside or before a symbol) and
UnassignedCode (the bits leave the code tree) after m whole symbols. -/
def Obligations.UnpackFailuresInOrder : Prop :=
  ∀ s : State,
    let failed (k : FailKind) : State := { s with
      status := { s.status with done := false, fail := true, kind := some k, lastop := 0x50#8 }, dstLen := 0#32 }
    let inRange := s.srcOff.toNat + s.srcLen.toNat ≤ s.ibufBytes.toNat
    let outRange := s.dstOff.toNat + s.symN.toNat ≤ s.obufBytes.toNat
    let bits := streamBits (s.ibufRange s.srcOff.toNat s.srcLen.toNat)
    (s.status.tblv = false → exec .unpack s = .next (failed .badState)) ∧
    (s.status.tblv = true → ¬ inRange → exec .unpack s = .next (failed .bufferOverflow)) ∧
    (s.status.tblv = true → inRange → ¬ outRange → exec .unpack s = .next (failed .bufferOverflow)) ∧
    (s.status.tblv = true → TableOk s → inRange → outRange →
      ∀ (out : List Byte) (rest : List Bool), out.length < s.symN.toNat → (∀ x ∈ out, getSym s.len x ≠ 0#8) →
        bits = symbolBits s.len s.code out ++ rest →
        ((rest = [] ∨ ∃ y, getSym s.len y ≠ 0#8 ∧ rest.length < (getSym s.len y).toNat ∧
            rest <+: codeBits (getSym s.len y) (getSym s.code y)) →
          exec .unpack s = .next (failed .truncatedPayload)) ∧
        (rest ≠ [] → (∀ y, getSym s.len y ≠ 0#8 →
            ¬ codeBits (getSym s.len y) (getSym s.code y) <+: rest ∧
            ¬ rest <+: codeBits (getSym s.len y) (getSym s.code y)) →
          exec .unpack s = .next (failed .unassignedCode)))

/-- R74, R28, R38: PACK and UNPACK leave HIST, the tree, LEN, the codes, ORIG_LEN, TBLV, DSTATE and every OBUF byte outside
OBUF[DST_OFF ..+ DST_LEN]; UNPACK leaves TOTAL_BITS. -/
def Obligations.FrameOfPackAndUnpack : Prop :=
  ∀ (i : Instr) (s t : State), i ∈ [Instr.pack, .unpack] → exec i s = .next t →
    SameHist s t ∧ SameTree s t ∧ t.len = s.len ∧ SameCodes s t ∧ t.origLen = s.origLen ∧
    t.status.tblv = s.status.tblv ∧ t.status.dstate = s.status.dstate ∧ SameHostSide s t ∧
    SameObufOutside s.dstOff.toNat t.dstLen.toNat s t ∧ (i = .unpack → SameTotals s t)

/-- R172: "After a successful `Pack` of a range that the HIST procedure has also counted, T = Σ_s HIST[s] * LEN[s]". -/
def Obligations.PackedBitsAreTheWeightedLengths : Prop :=
  ∀ s t u v : State, exec .hist s = .next t → t.status.done = true → exec .pack u = .next v → v.status.done = true →
    u.ibufRange u.srcOff.toNat u.srcLen.toNat = s.ibufRange s.srcOff.toNat s.srcLen.toNat →
    v.totalBitsLo.toNat + 2 ^ 32 * v.totalBitsHi.toNat =
      (allSymbols.map fun x => (getSym t.hist x).toNat * (getSym u.len x).toNat).sum

/-- R176: what PACK wrote, presented as the payload with the same table and the same symbol count, UNPACK turns back into
the input bytes. -/
def Obligations.UnpackInvertsPack : Prop :=
  ∀ s t u : State, TableOk s → exec .pack s = .next t → t.status.done = true →
    u.len = t.len → u.code = t.code → u.status.tblv = true → u.symN = s.srcLen → u.srcLen = t.dstLen →
    u.srcOff.toNat + u.srcLen.toNat ≤ u.ibufBytes.toNat → u.dstOff.toNat + u.symN.toNat ≤ u.obufBytes.toNat →
    u.ibufRange u.srcOff.toNat u.srcLen.toNat = t.obufRange s.dstOff.toNat t.dstLen.toNat →
    ∃ v, exec .unpack u = .next v ∧ v.status.done = true ∧ v.dstLen = s.srcLen ∧
      v.obufRange u.dstOff.toNat v.dstLen.toNat = s.ibufRange s.srcOff.toNat s.srcLen.toNat

/-- R177: with the last byte of PACK's output removed, UNPACK fails with TruncatedPayload. -/
def Obligations.UnpackReportsAMissingLastByte : Prop :=
  ∀ s t u : State, TableOk s → exec .pack s = .next t → t.status.done = true → 1 ≤ s.srcLen.toNat →
    u.len = t.len → u.code = t.code → u.status.tblv = true → u.symN = s.srcLen → u.srcLen.toNat + 1 = t.dstLen.toNat →
    u.srcOff.toNat + u.srcLen.toNat ≤ u.ibufBytes.toNat → u.dstOff.toNat + u.symN.toNat ≤ u.obufBytes.toNat →
    u.ibufRange u.srcOff.toNat u.srcLen.toNat = t.obufRange s.dstOff.toNat u.srcLen.toNat →
    ∃ v, exec .unpack u = .next v ∧ v.status.fail = true ∧ v.status.kind = some .truncatedPayload

/-! ## Encoder -/

/-- R190, R191, R194, R91 to R95: ENCODE of an input in range builds the tables HIST, TBUILD and CGEN build, and when the
artifact fits, OBUF holds magic, originalLength, symbolCount, the (symbol, length) table in ORDER order, and the packed
payload; DST_LEN is its size, ORIG_LEN the input's length, TOTAL_BITS the payload's bits. -/
def Obligations.EncodeWritesTheArtifact : Prop :=
  ∀ s : State, s.srcOff.toNat + s.srcLen.toNat ≤ s.ibufBytes.toNat →
    ∃ t0, execAll [.hist, .tbuild, .cgen] s = some t0 ∧ t0.status.done = true ∧
      let xs := s.ibufRange s.srcOff.toNat s.srcLen.toNat
      let n := t0.codeNsym.toNat
      let total := 10 + 2 * n + (totalBits t0.len xs + 7) / 8
      (s.dstOff.toNat + total ≤ s.obufBytes.toNat →
        ∃ t, exec .encode s = .next t ∧
          t.status = { s.status with done := true, fail := false, kind := none, tblv := true, lastop := 0x60#8 } ∧
          t.dstLen.toNat = total ∧ t.origLen = s.srcLen ∧
          t.totalBitsLo.toNat + 2 ^ 32 * t.totalBitsHi.toNat = totalBits t0.len xs ∧
          SameHist t0 t ∧ SameTree t0 t ∧ t.len = t0.len ∧ SameCodes t0 t ∧
          n = (allSymbols.filter fun x => decide (x ∈ xs)).length ∧
          t.obufRange s.dstOff.toNat 4 = [0x48#8, 0x55#8, 0x46#8, 0x31#8] ∧
          le32 (t.obufByte (s.dstOff.toNat + 4)) (t.obufByte (s.dstOff.toNat + 5)) (t.obufByte (s.dstOff.toNat + 6))
            (t.obufByte (s.dstOff.toNat + 7)) = s.srcLen.toNat ∧
          le16 (t.obufByte (s.dstOff.toNat + 8)) (t.obufByte (s.dstOff.toNat + 9)) = n ∧
          (∀ (i : Nat) (x : Byte), i < n → t.order[i]? = some x →
            t.obufByte (s.dstOff.toNat + 10 + 2 * i) = x ∧ t.obufByte (s.dstOff.toNat + 11 + 2 * i) = getSym t.len x) ∧
          streamBits (t.obufRange (s.dstOff.toNat + 10 + 2 * n) ((totalBits t0.len xs + 7) / 8)) =
            symbolBits t.len t.code xs ++
              List.replicate (8 * ((totalBits t0.len xs + 7) / 8) - totalBits t0.len xs) false)

/-- R193, R224: ENCODE's two failures. Check 1 changes only STATUS and DST_LEN; check 2 leaves the tables that HIST, TBUILD
and CGEN build, and OBUF, ORIG_LEN and TOTAL_BITS as before. -/
def Obligations.EncodeFailures : Prop :=
  ∀ s : State,
    (s.ibufBytes.toNat < s.srcOff.toNat + s.srcLen.toNat → exec .encode s = .next { s with
      status := { s.status with done := false, fail := true, kind := some .bufferOverflow, lastop := 0x60#8 }
      dstLen := 0#32 }) ∧
    (s.srcOff.toNat + s.srcLen.toNat ≤ s.ibufBytes.toNat →
      ∃ t0, execAll [.hist, .tbuild, .cgen] s = some t0 ∧ t0.status.done = true ∧
        (s.obufBytes.toNat < s.dstOff.toNat + (10 + 2 * t0.codeNsym.toNat +
            (totalBits t0.len (s.ibufRange s.srcOff.toNat s.srcLen.toNat) + 7) / 8) →
          exec .encode s = .next { s with
            hist := t0.hist, histTotal := t0.histTotal, histNsym := t0.histNsym
            node := t0.node, nodeCount := t0.nodeCount, pqCount := t0.pqCount, root := t0.root
            len := t0.len, code := t0.code, order := t0.order, codeNsym := t0.codeNsym
            status := { s.status with done := false, fail := true, kind := some .bufferOverflow, tblv := true
                                      lastop := 0x60#8 }
            dstLen := 0#32 }))

/-- R192(a), R234: the empty input is a success and its artifact is the ten bytes 48 55 46 31 00 00 00 00 00 00. -/
def Obligations.EmptyInputEncodesToTenBytes : Prop :=
  ∀ s : State, s.srcLen = 0#32 → s.srcOff.toNat ≤ s.ibufBytes.toNat → s.dstOff.toNat + 10 ≤ s.obufBytes.toNat →
    ∃ t, exec .encode s = .next t ∧
      t.status = { s.status with done := true, fail := false, kind := none, tblv := true, lastop := 0x60#8 } ∧
      t.dstLen = 10#32 ∧ t.root = 0x1FF#9 ∧ t.codeNsym = 0#9 ∧
      t.obufRange s.dstOff.toNat 10 = [0x48#8, 0x55#8, 0x46#8, 0x31#8, 0#8, 0#8, 0#8, 0#8, 0#8, 0#8]

/-- R192(b): one distinct symbol x, len >= 1 times: the header lists (x, 1) and the payload is ceil(len / 8) zero bytes. -/
def Obligations.LoneSymbolEncodesToZeroBits : Prop :=
  ∀ (s : State) (x : Byte), 1 ≤ s.srcLen.toNat → s.srcOff.toNat + s.srcLen.toNat ≤ s.ibufBytes.toNat →
    s.ibufRange s.srcOff.toNat s.srcLen.toNat = List.replicate s.srcLen.toNat x →
    s.dstOff.toNat + 12 + (s.srcLen.toNat + 7) / 8 ≤ s.obufBytes.toNat →
    ∃ t, exec .encode s = .next t ∧ t.status.done = true ∧ t.dstLen.toNat = 12 + (s.srcLen.toNat + 7) / 8 ∧
      t.codeNsym = 1#9 ∧ t.obufRange (s.dstOff.toNat + 10) 2 = [x, 1#8] ∧
      t.obufRange (s.dstOff.toNat + 12) ((s.srcLen.toNat + 7) / 8) = List.replicate ((s.srcLen.toNat + 7) / 8) 0#8

/-- R195: the artifact is a function of the input bytes alone. -/
def Obligations.ArtifactDependsOnTheInputAlone : Prop :=
  ∀ s s' t t' : State,
    s.ibufRange s.srcOff.toNat s.srcLen.toNat = s'.ibufRange s'.srcOff.toNat s'.srcLen.toNat →
    exec .encode s = .next t → exec .encode s' = .next t' → t.status.done = true → t'.status.done = true →
    t.dstLen = t'.dstLen ∧
      t.obufRange s.dstOff.toNat t.dstLen.toNat = t'.obufRange s'.dstOff.toNat t'.dstLen.toNat

/-! ## Decoder -/

/-- R200 to R202, R207(a), R209: DECODE's failures before the table commit, in order: input range, header structure, table
contents. Each changes only STATUS and DST_LEN. -/
def Obligations.DecodeRejectsBadHeaders : Prop :=
  ∀ s : State,
    let failed (k : FailKind) : State := { s with
      status := { s.status with done := false, fail := true, kind := some k, dstate := .failed, lastop := 0x70#8 }
      dstLen := 0#32 }
    let inRange := s.srcOff.toNat + s.srcLen.toNat ≤ s.ibufBytes.toNat
    (¬ inRange → exec .decode s = .next (failed .bufferOverflow)) ∧
    (inRange →
      (s.srcLen.toNat < 10 ∨ [artByte s 0, artByte s 1, artByte s 2, artByte s 3] ≠ [0x48#8, 0x55#8, 0x46#8, 0x31#8] ∨
        256 < artCount s ∨ s.srcLen.toNat < 10 + 2 * artCount s) →
      exec .decode s = .next (failed .invalidHeader)) ∧
    (inRange → HeaderOk s →
      ((∃ i, i < artCount s ∧ artLen s i = 0#8) ∨
        (∃ i j, i < j ∧ j < artCount s ∧ artSym s i = artSym s j) ∨
        2 ^ 255 < ((List.range (artCount s)).map fun i => 2 ^ (255 - (artLen s i).toNat)).sum) →
      exec .decode s = .next (failed .inconsistentCodeLengths))

/-- R200 to R206: a header that passes both stages describes a table (its lengths in LEN, 0 elsewhere, the codes CCANON makes
of them) that is valid; if the output fits and the payload begins with the codes of originalLength symbols, DECODE leaves
exactly that table and those symbols, and ORIG_LEN and DST_LEN hold originalLength. -/
def Obligations.DecodeRestoresTheSymbols : Prop :=
  ∀ s : State, s.srcOff.toNat + s.srcLen.toNat ≤ s.ibufBytes.toNat → HeaderOk s → LengthsOk s →
    ∃ t0, HeaderTable s t0 ∧ t0.status.tblv = true ∧ t0.codeNsym.toNat = artCount s ∧ TableOk t0 ∧
      ∀ out : List Byte, out.length = artOrigLen s → s.dstOff.toNat + artOrigLen s ≤ s.obufBytes.toNat →
        (∀ x ∈ out, getSym t0.len x ≠ 0#8) → symbolBits t0.len t0.code out <+: artPayload s →
        ∃ t, exec .decode s = .next t ∧
          t.status = { s.status with done := true, fail := false, kind := none, tblv := true, dstate := .done
                                     lastop := 0x70#8 } ∧
          t.len = t0.len ∧ SameCodes t0 t ∧ t.origLen.toNat = artOrigLen s ∧ t.dstLen.toNat = artOrigLen s ∧
          t.obufRange s.dstOff.toNat (artOrigLen s) = out

/-- R206, R207(b), R209: DECODE's failures after the table commit, in order: the output capacity before any payload bit,
then the first of TruncatedPayload and UnassignedCode after some whole symbols. Each leaves the header's table, TBLV = 1
and ORIG_LEN = originalLength. -/
def Obligations.DecodeFailuresAfterTheCommit : Prop :=
  ∀ s : State, s.srcOff.toNat + s.srcLen.toNat ≤ s.ibufBytes.toNat → HeaderOk s → LengthsOk s →
    ∃ t0, HeaderTable s t0 ∧
      let failed (k : FailKind) : State := { s with
        len := t0.len, code := t0.code, order := t0.order, codeNsym := t0.codeNsym
        origLen := BitVec.ofNat 32 (artOrigLen s)
        status := { s.status with done := false, fail := true, kind := some k, tblv := true, dstate := .failed
                                  lastop := 0x70#8 }
        dstLen := 0#32 }
      (s.obufBytes.toNat < s.dstOff.toNat + artOrigLen s → exec .decode s = .next (failed .bufferOverflow)) ∧
      (s.dstOff.toNat + artOrigLen s ≤ s.obufBytes.toNat →
        ∀ (out : List Byte) (rest : List Bool), out.length < artOrigLen s → (∀ x ∈ out, getSym t0.len x ≠ 0#8) →
          artPayload s = symbolBits t0.len t0.code out ++ rest →
          ((rest = [] ∨ ∃ y, getSym t0.len y ≠ 0#8 ∧ rest.length < (getSym t0.len y).toNat ∧
              rest <+: codeBits (getSym t0.len y) (getSym t0.code y)) →
            exec .decode s = .next (failed .truncatedPayload)) ∧
          (rest ≠ [] → (∀ y, getSym t0.len y ≠ 0#8 →
              ¬ codeBits (getSym t0.len y) (getSym t0.code y) <+: rest ∧
              ¬ rest <+: codeBits (getSym t0.len y) (getSym t0.code y)) →
            exec .decode s = .next (failed .unassignedCode)))

/-- R74, R28, R38, R203: ENCODE and DECODE leave every OBUF byte outside OBUF[DST_OFF ..+ DST_LEN] and the host side; ENCODE
leaves DSTATE; DECODE leaves HIST, the tree and TOTAL_BITS and ends in Done or Failed. -/
def Obligations.FrameOfEncodeAndDecode : Prop :=
  ∀ (i : Instr) (s t : State), i ∈ [Instr.encode, .decode] → exec i s = .next t →
    SameObufOutside s.dstOff.toNat t.dstLen.toNat s t ∧ SameHostSide s t ∧
    (i = .encode → t.status.dstate = s.status.dstate) ∧
    (i = .decode → SameHist s t ∧ SameTree s t ∧ SameTotals s t ∧
      t.status.dstate = (if t.status.fail then .failed else .done))

/-- R210: "For every byte sequence B ... if ENCODE of B succeeds and its DST_LEN artifact bytes are copied by the host to
IBUF and DECODE is run on them with enough room in OBUF, DECODE succeeds, DST_LEN = |B|, and OBUF[DST_OFF ..+ |B|] = B." -/
def Obligations.DecodeInvertsEncode : Prop :=
  ∀ s t u : State, exec .encode s = .next t → t.status.done = true →
    u.srcLen = t.dstLen → u.srcOff.toNat + u.srcLen.toNat ≤ u.ibufBytes.toNat →
    u.ibufRange u.srcOff.toNat u.srcLen.toNat = t.obufRange s.dstOff.toNat t.dstLen.toNat →
    u.dstOff.toNat + s.srcLen.toNat ≤ u.obufBytes.toNat →
    ∃ v, exec .decode u = .next v ∧ v.status.done = true ∧ v.status.dstate = .done ∧ v.dstLen = s.srcLen ∧
      v.obufRange u.dstOff.toNat v.dstLen.toNat = s.ibufRange s.srcOff.toNat s.srcLen.toNat

/-! ## Invariants -/

/-- R40, R41: "The following hold after reset": the four invariants at State.reset. -/
def Obligations.ResetMeetsTheInvariants : Prop :=
  OutcomeOk State.reset ∧ BuffersOk State.reset ∧ TreeOk State.reset ∧ TableOk State.reset

/-- R37, R38: every step keeps both buffers within their capacities and in the model's canonical form (log 3), and the
outcome bits coherent (R26). -/
def Obligations.StepKeepsBuffersAndOutcome : Prop :=
  ∀ s t : State, BuffersOk s → OutcomeOk s → step s = .next t → BuffersOk t ∧ OutcomeOk t

/-- R40(a) to (f): every step keeps the tree invariant. -/
def Obligations.StepKeepsTheTree : Prop :=
  ∀ s t : State, TreeOk s → step s = .next t → TreeOk t

/-- R35, R36, R40(g): every step keeps the code-table invariant: whenever TBLV = 1 the codes are prefix-free, fit their
lengths and satisfy the Kraft inequality. -/
def Obligations.StepKeepsTheCodeTable : Prop :=
  ∀ s t : State, TableOk s → step s = .next t → TableOk t
end

