-- ==== Sys2Proof/Laws/Memory.lean ====
section
/-! SUPPORT. The laws of the buffers' memory: read after write, what a write of several bytes leaves alone, the canonical
form is kept by every write, and canonical memories that read alike are equal. -/

namespace Sys2Proof.Machine

@[simp] theorem Memory.lookup_nil (a : Nat) : Memory.lookup [] a = none := rfl

@[simp] theorem Memory.wf_nil : Memory.wf [] = true := rfl

/-- Reading after writing the same address gives the byte written. -/
@[simp] theorem Memory.lookup_write_same (m : Memory) (a : Nat) (b : Byte) :
    Memory.lookup (Memory.write m a b) a = some b := by
  induction m with
  | nil => simp [Memory.write, Memory.lookup]
  | cons c m ih =>
    obtain ⟨a', b'⟩ := c
    simp only [Memory.write]
    split
    · simp [Memory.lookup]
    · split
      · simp [Memory.lookup]
      · simp_all [Memory.lookup]

/-- A write leaves every other address as it was. -/
theorem Memory.lookup_write_other (m : Memory) {a x : Nat} (b : Byte) (h : x ≠ a) :
    Memory.lookup (Memory.write m a b) x = Memory.lookup m x := by
  induction m with
  | nil => simp [Memory.write, Memory.lookup, h, Memory.unlisted]
  | cons c m ih =>
    obtain ⟨a', b'⟩ := c
    simp only [Memory.write]
    split
    · simp [Memory.lookup, h]
    · split
      · rename_i h1
        subst h1
        simp [Memory.lookup, h]
      · simp [Memory.lookup, ih]

/-- Writing bytes at consecutive addresses leaves every address outside them as it was. -/
theorem Memory.lookup_writeAll_outside (m : Memory) (a : Nat) (bs : List Byte) (x : Nat)
    (h : ¬ (a ≤ x ∧ x < a + bs.length)) :
    Memory.lookup (Memory.writeAll m a bs) x = Memory.lookup m x := by
  induction bs generalizing m a with
  | nil => rfl
  | cons b bs ih =>
    simp only [Memory.writeAll, List.length_cons] at *
    rw [ih _ _ (by omega), Memory.lookup_write_other _ _ (by omega)]

/-- Writing bytes at consecutive addresses: the byte at `a + j` is the j-th. -/
theorem Memory.lookup_writeAll_inside (m : Memory) (a : Nat) (bs : List Byte) (j : Nat) (h : j < bs.length) :
    Memory.lookup (Memory.writeAll m a bs) (a + j) = some bs[j] := by
  induction bs generalizing m a j with
  | nil => simp at h
  | cons b bs ih =>
    simp only [Memory.writeAll]
    cases j with
    | zero => rw [Memory.lookup_writeAll_outside _ _ _ _ (by omega)]; simp
    | succ j =>
      have := ih (Memory.write m a b) (a + 1) j (by simpa using h)
      simpa [Nat.add_assoc, Nat.add_comm 1] using this

/-- The canonical form, as a chain of strictly rising addresses. -/
theorem Memory.wf_cons (c : Host.Cell) (m : Memory) :
    Memory.wf (c :: m) = true ↔ (∀ d ∈ m.head?, c.1 < d.1) ∧ Memory.wf m = true := by
  cases m with
  | nil => simp [Memory.wf]
  | cons d m => simp [Memory.wf]

/-- The first address of a written memory is the written one or the one that was first. -/
theorem Memory.head_write (m : Memory) (a : Nat) (b : Byte) :
    ∀ d ∈ (Memory.write m a b).head?, d.1 = a ∨ ∃ c ∈ m.head?, d.1 = c.1 := by
  cases m with
  | nil => simp [Memory.write]
  | cons c m =>
    simp only [Memory.write]
    split
    · simp
    · split <;> simp

/-- A write keeps the canonical form. -/
theorem Memory.wf_write (m : Memory) (a : Nat) (b : Byte) (h : Memory.wf m = true) :
    Memory.wf (Memory.write m a b) = true := by
  induction m with
  | nil => rfl
  | cons c m ih =>
    obtain ⟨a', b'⟩ := c
    have hc := (Memory.wf_cons _ _).1 h
    simp only [Memory.write]
    split
    · exact (Memory.wf_cons _ _).2 ⟨by simpa, h⟩
    · split
      · rename_i h1
        subst h1
        exact (Memory.wf_cons _ _).2 hc
      · refine (Memory.wf_cons _ _).2 ⟨fun d hd => ?_, ih hc.2⟩
        rcases Memory.head_write m a b d hd with h2 | ⟨c, h2, h3⟩
        · simp only; omega
        · rw [h3]; exact hc.1 c h2

/-- Writing several bytes keeps the canonical form. -/
theorem Memory.wf_writeAll (m : Memory) (a : Nat) (bs : List Byte) (h : Memory.wf m = true) :
    Memory.wf (Memory.writeAll m a bs) = true := by
  induction bs generalizing m a with
  | nil => exact h
  | cons b bs ih => exact ih _ _ (Memory.wf_write m a b h)

/-- The addresses of a written memory are the old ones and the written one. -/
theorem Memory.mem_write (m : Memory) (a : Nat) (b : Byte) :
    ∀ c ∈ Memory.write m a b, c.1 = a ∨ c ∈ m := by
  induction m with
  | nil => simp [Memory.write]
  | cons d m ih =>
    obtain ⟨a', b'⟩ := d
    intro c hc
    simp only [Memory.write] at hc
    split at hc
    · simp only [List.mem_cons] at hc ⊢
      rcases hc with h | h | h <;> simp_all
    · split at hc
      · simp only [List.mem_cons] at hc ⊢
        rcases hc with h | h <;> simp_all
      · simp only [List.mem_cons] at hc ⊢
        rcases hc with h | h
        · simp [h]
        · rcases ih c h with h1 | h1 <;> simp [h1]

/-- The addresses after writing several bytes are the old ones and the written ones. -/
theorem Memory.mem_writeAll (m : Memory) (a : Nat) (bs : List Byte) :
    ∀ c ∈ Memory.writeAll m a bs, (a ≤ c.1 ∧ c.1 < a + bs.length) ∨ c ∈ m := by
  induction bs generalizing m a with
  | nil => intro c hc; exact .inr hc
  | cons b bs ih =>
    intro c hc
    simp only [List.length_cons]
    rcases ih _ _ c hc with h | h
    · exact .inl ⟨by omega, by omega⟩
    · rcases Memory.mem_write m a b c h with h1 | h1
      · exact .inl ⟨by omega, by omega⟩
      · exact .inr h1

/-- Below the first address of a canonical memory nothing is listed. -/
theorem Memory.lookup_below (m : Memory) (a : Nat) (h : Memory.wf m = true) (hlt : ∀ c ∈ m.head?, a < c.1) :
    Memory.lookup m a = none := by
  induction m with
  | nil => rfl
  | cons c m ih =>
    obtain ⟨a', b'⟩ := c
    have hc := (Memory.wf_cons _ _).1 h
    have h1 : a < a' := hlt (a', b') (by simp)
    have h2 : a ≠ a' := by omega
    simp only [Memory.lookup, h2, if_false]
    exact ih hc.2 fun d hd => by have := hc.1 d hd; simp only at this; omega

/-- Equal memories are equal data: two canonical memories that list the same byte at every address are the same list. -/
theorem Memory.eq_of_lookup_eq : ∀ (m n : Memory), Memory.wf m = true → Memory.wf n = true →
    (∀ a, Memory.lookup m a = Memory.lookup n a) → m = n
  | [], [], _, _, _ => rfl
  | [], (a, b) :: n, _, _, h => by have := h a; simp [Memory.lookup, Memory.unlisted] at this
  | (a, b) :: m, [], _, _, h => by have := h a; simp [Memory.lookup, Memory.unlisted] at this
  | (a, b) :: m, (a', b') :: n, hm, hn, h => by
    have hcm := (Memory.wf_cons _ _).1 hm
    have hcn := (Memory.wf_cons _ _).1 hn
    have haa : a = a' := by
      rcases Nat.lt_trichotomy a a' with h1 | h1 | h1
      · have h2 := Memory.lookup_below ((a', b') :: n) a hn (by simpa)
        rw [← h a] at h2; simp [Memory.lookup] at h2
      · exact h1
      · have h2 := Memory.lookup_below ((a, b) :: m) a' hm (by simpa)
        rw [h a'] at h2; simp [Memory.lookup] at h2
    subst haa
    have hb : b = b' := by have := h a; simpa [Memory.lookup] using this
    subst hb
    rw [Memory.eq_of_lookup_eq m n hcm.2 hcn.2 fun x => ?_]
    by_cases hx : x = a
    · subst hx
      rw [Memory.lookup_below m x hcm.2 hcm.1, Memory.lookup_below n x hcn.2 hcn.1]
    · have := h x; simpa [Memory.lookup, hx] using this

/-! ## The buffers of State -/

@[simp] theorem State.ibufRange_length (s : State) (off len : Nat) : (s.ibufRange off len).length = len := by
  simp [State.ibufRange]

@[simp] theorem State.obufRange_length (s : State) (off len : Nat) : (s.obufRange off len).length = len := by
  simp [State.obufRange]

/-- What `writeObuf` puts where it writes. -/
theorem State.obufByte_writeObuf_inside (s : State) (dst : Nat) (bs : List Byte) (j : Nat) (h : j < bs.length) :
    (s.writeObuf dst bs).obufByte (dst + j) = bs[j] := by
  simp [State.writeObuf, State.obufByte, Memory.lookup_writeAll_inside _ _ _ _ h]

/-- What `writeObuf` leaves. -/
theorem State.obufByte_writeObuf_outside (s : State) (dst : Nat) (bs : List Byte) (a : Nat)
    (h : ¬ (dst ≤ a ∧ a < dst + bs.length)) : (s.writeObuf dst bs).obufByte a = s.obufByte a := by
  simp [State.writeObuf, State.obufByte, Memory.lookup_writeAll_outside _ _ _ _ h]

/-- Reading back what `writeObuf` wrote. -/
theorem State.obufRange_writeObuf (s : State) (dst : Nat) (bs : List Byte) :
    (s.writeObuf dst bs).obufRange dst bs.length = bs := by
  apply List.ext_getElem
  · simp
  · intro j h1 h2
    simp [State.obufRange, State.obufByte_writeObuf_inside _ _ _ _ h2]

end Sys2Proof.Machine
end

