-- ==== Sys2Proof/Laws/PerInstr.lean ====
section
/-! SUPPORT. Facts about every command as syntax, one lemma per constructor. Family `LegalWord`: the command's word has
well-formed fields (spec/30_encoding.md R80), and its opcode's high nibble is its unit (R81). -/

namespace Sys2Proof

/-- The unit of each command, "following the order of TERO §4.1 to §4.6" (R81). -/
def Laws.LegalWord.unit : Instr → Nat
  | .nop | .srst => 0
  | .hist => 1
  | .tseed | .tmerge | .tfin | .tbuild => 2
  | .clen | .ccanon | .cgen => 3
  | .pack => 4
  | .unpack => 5
  | .encode => 6
  | .decode => 7

/-- The command's word is legal and names its unit. -/
def Laws.LegalWord.Statement (i : Instr) : Prop :=
  (CmdFields.ofWord (encode i)).wf = true ∧ (encode i).toNat / 16 = Laws.LegalWord.unit i

theorem Laws.LegalWord.nop : Laws.LegalWord.Statement .nop := by unfold Laws.LegalWord.Statement; decide
theorem Laws.LegalWord.srst : Laws.LegalWord.Statement .srst := by unfold Laws.LegalWord.Statement; decide
theorem Laws.LegalWord.hist : Laws.LegalWord.Statement .hist := by unfold Laws.LegalWord.Statement; decide
theorem Laws.LegalWord.tseed : Laws.LegalWord.Statement .tseed := by unfold Laws.LegalWord.Statement; decide
theorem Laws.LegalWord.tmerge : Laws.LegalWord.Statement .tmerge := by unfold Laws.LegalWord.Statement; decide
theorem Laws.LegalWord.tfin : Laws.LegalWord.Statement .tfin := by unfold Laws.LegalWord.Statement; decide
theorem Laws.LegalWord.tbuild : Laws.LegalWord.Statement .tbuild := by unfold Laws.LegalWord.Statement; decide
theorem Laws.LegalWord.clen : Laws.LegalWord.Statement .clen := by unfold Laws.LegalWord.Statement; decide
theorem Laws.LegalWord.ccanon : Laws.LegalWord.Statement .ccanon := by unfold Laws.LegalWord.Statement; decide
theorem Laws.LegalWord.cgen : Laws.LegalWord.Statement .cgen := by unfold Laws.LegalWord.Statement; decide
theorem Laws.LegalWord.pack : Laws.LegalWord.Statement .pack := by unfold Laws.LegalWord.Statement; decide
theorem Laws.LegalWord.unpack : Laws.LegalWord.Statement .unpack := by unfold Laws.LegalWord.Statement; decide
theorem Laws.LegalWord.encode : Laws.LegalWord.Statement .encode := by unfold Laws.LegalWord.Statement; decide
theorem Laws.LegalWord.decode : Laws.LegalWord.Statement .decode := by unfold Laws.LegalWord.Statement; decide

end Sys2Proof
end

