-- ==== Sys2Proof/Laws/State.lean ====
section
/-! SUPPORT. The small lemmas of the update operations on State: one per field an operation writes or leaves. Writes of the
flags are in one operation each; the end of a command is `complete`. -/

namespace Sys2Proof.Machine

/-! ## Flags -/

@[simp] theorem State.setTblv_srcOff (v : Bool) (s : State) : (s.setTblv v).srcOff = s.srcOff := rfl
@[simp] theorem State.setTblv_srcLen (v : Bool) (s : State) : (s.setTblv v).srcLen = s.srcLen := rfl
@[simp] theorem State.setTblv_dstOff (v : Bool) (s : State) : (s.setTblv v).dstOff = s.dstOff := rfl
@[simp] theorem State.setTblv_symN (v : Bool) (s : State) : (s.setTblv v).symN = s.symN := rfl
@[simp] theorem State.setTblv_dstLen (v : Bool) (s : State) : (s.setTblv v).dstLen = s.dstLen := rfl
@[simp] theorem State.setTblv_origLen (v : Bool) (s : State) : (s.setTblv v).origLen = s.origLen := rfl
@[simp] theorem State.setTblv_histTotal (v : Bool) (s : State) : (s.setTblv v).histTotal = s.histTotal := rfl
@[simp] theorem State.setTblv_histNsym (v : Bool) (s : State) : (s.setTblv v).histNsym = s.histNsym := rfl
@[simp] theorem State.setTblv_nodeCount (v : Bool) (s : State) : (s.setTblv v).nodeCount = s.nodeCount := rfl
@[simp] theorem State.setTblv_pqCount (v : Bool) (s : State) : (s.setTblv v).pqCount = s.pqCount := rfl
@[simp] theorem State.setTblv_root (v : Bool) (s : State) : (s.setTblv v).root = s.root := rfl
@[simp] theorem State.setTblv_codeNsym (v : Bool) (s : State) : (s.setTblv v).codeNsym = s.codeNsym := rfl
@[simp] theorem State.setTblv_totalBitsLo (v : Bool) (s : State) : (s.setTblv v).totalBitsLo = s.totalBitsLo := rfl
@[simp] theorem State.setTblv_totalBitsHi (v : Bool) (s : State) : (s.setTblv v).totalBitsHi = s.totalBitsHi := rfl
@[simp] theorem State.setTblv_hist (v : Bool) (s : State) : (s.setTblv v).hist = s.hist := rfl
@[simp] theorem State.setTblv_node (v : Bool) (s : State) : (s.setTblv v).node = s.node := rfl
@[simp] theorem State.setTblv_len (v : Bool) (s : State) : (s.setTblv v).len = s.len := rfl
@[simp] theorem State.setTblv_code (v : Bool) (s : State) : (s.setTblv v).code = s.code := rfl
@[simp] theorem State.setTblv_order (v : Bool) (s : State) : (s.setTblv v).order = s.order := rfl
@[simp] theorem State.setTblv_ibuf (v : Bool) (s : State) : (s.setTblv v).ibuf = s.ibuf := rfl
@[simp] theorem State.setTblv_obuf (v : Bool) (s : State) : (s.setTblv v).obuf = s.obuf := rfl
@[simp] theorem State.setTblv_ibufBytes (v : Bool) (s : State) : (s.setTblv v).ibufBytes = s.ibufBytes := rfl
@[simp] theorem State.setTblv_obufBytes (v : Bool) (s : State) : (s.setTblv v).obufBytes = s.obufBytes := rfl
@[simp] theorem State.setTblv_resets (v : Bool) (s : State) : (s.setTblv v).resets = s.resets := rfl
@[simp] theorem State.setTblv_script (v : Bool) (s : State) : (s.setTblv v).script = s.script := rfl
@[simp] theorem State.setTblv_received (v : Bool) (s : State) : (s.setTblv v).received = s.received := rfl
@[simp] theorem State.setTblv_status_done (v : Bool) (s : State) : (s.setTblv v).status.done = s.status.done := rfl
@[simp] theorem State.setTblv_status_fail (v : Bool) (s : State) : (s.setTblv v).status.fail = s.status.fail := rfl
@[simp] theorem State.setTblv_status_tblv (v : Bool) (s : State) : (s.setTblv v).status.tblv = v := rfl
@[simp] theorem State.setTblv_status_kind (v : Bool) (s : State) : (s.setTblv v).status.kind = s.status.kind := rfl
@[simp] theorem State.setTblv_status_dstate (v : Bool) (s : State) : (s.setTblv v).status.dstate = s.status.dstate := rfl
@[simp] theorem State.setTblv_status_lastop (v : Bool) (s : State) : (s.setTblv v).status.lastop = s.status.lastop := rfl

@[simp] theorem State.setDState_srcOff (d : DState) (s : State) : (s.setDState d).srcOff = s.srcOff := rfl
@[simp] theorem State.setDState_srcLen (d : DState) (s : State) : (s.setDState d).srcLen = s.srcLen := rfl
@[simp] theorem State.setDState_dstOff (d : DState) (s : State) : (s.setDState d).dstOff = s.dstOff := rfl
@[simp] theorem State.setDState_symN (d : DState) (s : State) : (s.setDState d).symN = s.symN := rfl
@[simp] theorem State.setDState_dstLen (d : DState) (s : State) : (s.setDState d).dstLen = s.dstLen := rfl
@[simp] theorem State.setDState_origLen (d : DState) (s : State) : (s.setDState d).origLen = s.origLen := rfl
@[simp] theorem State.setDState_histTotal (d : DState) (s : State) : (s.setDState d).histTotal = s.histTotal := rfl
@[simp] theorem State.setDState_histNsym (d : DState) (s : State) : (s.setDState d).histNsym = s.histNsym := rfl
@[simp] theorem State.setDState_nodeCount (d : DState) (s : State) : (s.setDState d).nodeCount = s.nodeCount := rfl
@[simp] theorem State.setDState_pqCount (d : DState) (s : State) : (s.setDState d).pqCount = s.pqCount := rfl
@[simp] theorem State.setDState_root (d : DState) (s : State) : (s.setDState d).root = s.root := rfl
@[simp] theorem State.setDState_codeNsym (d : DState) (s : State) : (s.setDState d).codeNsym = s.codeNsym := rfl
@[simp] theorem State.setDState_totalBitsLo (d : DState) (s : State) : (s.setDState d).totalBitsLo = s.totalBitsLo := rfl
@[simp] theorem State.setDState_totalBitsHi (d : DState) (s : State) : (s.setDState d).totalBitsHi = s.totalBitsHi := rfl
@[simp] theorem State.setDState_hist (d : DState) (s : State) : (s.setDState d).hist = s.hist := rfl
@[simp] theorem State.setDState_node (d : DState) (s : State) : (s.setDState d).node = s.node := rfl
@[simp] theorem State.setDState_len (d : DState) (s : State) : (s.setDState d).len = s.len := rfl
@[simp] theorem State.setDState_code (d : DState) (s : State) : (s.setDState d).code = s.code := rfl
@[simp] theorem State.setDState_order (d : DState) (s : State) : (s.setDState d).order = s.order := rfl
@[simp] theorem State.setDState_ibuf (d : DState) (s : State) : (s.setDState d).ibuf = s.ibuf := rfl
@[simp] theorem State.setDState_obuf (d : DState) (s : State) : (s.setDState d).obuf = s.obuf := rfl
@[simp] theorem State.setDState_ibufBytes (d : DState) (s : State) : (s.setDState d).ibufBytes = s.ibufBytes := rfl
@[simp] theorem State.setDState_obufBytes (d : DState) (s : State) : (s.setDState d).obufBytes = s.obufBytes := rfl
@[simp] theorem State.setDState_resets (d : DState) (s : State) : (s.setDState d).resets = s.resets := rfl
@[simp] theorem State.setDState_script (d : DState) (s : State) : (s.setDState d).script = s.script := rfl
@[simp] theorem State.setDState_received (d : DState) (s : State) : (s.setDState d).received = s.received := rfl
@[simp] theorem State.setDState_status_done (d : DState) (s : State) : (s.setDState d).status.done = s.status.done := rfl
@[simp] theorem State.setDState_status_fail (d : DState) (s : State) : (s.setDState d).status.fail = s.status.fail := rfl
@[simp] theorem State.setDState_status_tblv (d : DState) (s : State) : (s.setDState d).status.tblv = s.status.tblv := rfl
@[simp] theorem State.setDState_status_kind (d : DState) (s : State) : (s.setDState d).status.kind = s.status.kind := rfl
@[simp] theorem State.setDState_status_dstate (d : DState) (s : State) : (s.setDState d).status.dstate = d := rfl
@[simp] theorem State.setDState_status_lastop (d : DState) (s : State) : (s.setDState d).status.lastop = s.status.lastop := rfl

@[simp] theorem Status.succeed_done (op : Byte) (t : Status) : (t.succeed op).done = true := rfl
@[simp] theorem Status.succeed_fail (op : Byte) (t : Status) : (t.succeed op).fail = false := rfl
@[simp] theorem Status.succeed_tblv (op : Byte) (t : Status) : (t.succeed op).tblv = t.tblv := rfl
@[simp] theorem Status.succeed_kind (op : Byte) (t : Status) : (t.succeed op).kind = none := rfl
@[simp] theorem Status.succeed_dstate (op : Byte) (t : Status) : (t.succeed op).dstate = t.dstate := rfl
@[simp] theorem Status.succeed_lastop (op : Byte) (t : Status) : (t.succeed op).lastop = op := rfl
@[simp] theorem Status.failWith_done (op : Byte) (k : FailKind) (t : Status) : (t.failWith op k).done = false := rfl
@[simp] theorem Status.failWith_fail (op : Byte) (k : FailKind) (t : Status) : (t.failWith op k).fail = true := rfl
@[simp] theorem Status.failWith_tblv (op : Byte) (k : FailKind) (t : Status) : (t.failWith op k).tblv = t.tblv := rfl
@[simp] theorem Status.failWith_kind (op : Byte) (k : FailKind) (t : Status) : (t.failWith op k).kind = some k := rfl
@[simp] theorem Status.failWith_dstate (op : Byte) (k : FailKind) (t : Status) : (t.failWith op k).dstate = t.dstate := rfl
@[simp] theorem Status.failWith_lastop (op : Byte) (k : FailKind) (t : Status) : (t.failWith op k).lastop = op := rfl

/-! ## OBUF -/

@[simp] theorem State.writeObuf_srcOff (dst : Nat) (bs : List Byte) (s : State) : (s.writeObuf dst bs).srcOff = s.srcOff := rfl
@[simp] theorem State.writeObuf_srcLen (dst : Nat) (bs : List Byte) (s : State) : (s.writeObuf dst bs).srcLen = s.srcLen := rfl
@[simp] theorem State.writeObuf_dstOff (dst : Nat) (bs : List Byte) (s : State) : (s.writeObuf dst bs).dstOff = s.dstOff := rfl
@[simp] theorem State.writeObuf_symN (dst : Nat) (bs : List Byte) (s : State) : (s.writeObuf dst bs).symN = s.symN := rfl
@[simp] theorem State.writeObuf_dstLen (dst : Nat) (bs : List Byte) (s : State) : (s.writeObuf dst bs).dstLen = s.dstLen := rfl
@[simp] theorem State.writeObuf_origLen (dst : Nat) (bs : List Byte) (s : State) : (s.writeObuf dst bs).origLen = s.origLen := rfl
@[simp] theorem State.writeObuf_histTotal (dst : Nat) (bs : List Byte) (s : State) : (s.writeObuf dst bs).histTotal = s.histTotal := rfl
@[simp] theorem State.writeObuf_histNsym (dst : Nat) (bs : List Byte) (s : State) : (s.writeObuf dst bs).histNsym = s.histNsym := rfl
@[simp] theorem State.writeObuf_nodeCount (dst : Nat) (bs : List Byte) (s : State) : (s.writeObuf dst bs).nodeCount = s.nodeCount := rfl
@[simp] theorem State.writeObuf_pqCount (dst : Nat) (bs : List Byte) (s : State) : (s.writeObuf dst bs).pqCount = s.pqCount := rfl
@[simp] theorem State.writeObuf_root (dst : Nat) (bs : List Byte) (s : State) : (s.writeObuf dst bs).root = s.root := rfl
@[simp] theorem State.writeObuf_codeNsym (dst : Nat) (bs : List Byte) (s : State) : (s.writeObuf dst bs).codeNsym = s.codeNsym := rfl
@[simp] theorem State.writeObuf_totalBitsLo (dst : Nat) (bs : List Byte) (s : State) : (s.writeObuf dst bs).totalBitsLo = s.totalBitsLo := rfl
@[simp] theorem State.writeObuf_totalBitsHi (dst : Nat) (bs : List Byte) (s : State) : (s.writeObuf dst bs).totalBitsHi = s.totalBitsHi := rfl
@[simp] theorem State.writeObuf_hist (dst : Nat) (bs : List Byte) (s : State) : (s.writeObuf dst bs).hist = s.hist := rfl
@[simp] theorem State.writeObuf_node (dst : Nat) (bs : List Byte) (s : State) : (s.writeObuf dst bs).node = s.node := rfl
@[simp] theorem State.writeObuf_len (dst : Nat) (bs : List Byte) (s : State) : (s.writeObuf dst bs).len = s.len := rfl
@[simp] theorem State.writeObuf_code (dst : Nat) (bs : List Byte) (s : State) : (s.writeObuf dst bs).code = s.code := rfl
@[simp] theorem State.writeObuf_order (dst : Nat) (bs : List Byte) (s : State) : (s.writeObuf dst bs).order = s.order := rfl
@[simp] theorem State.writeObuf_ibuf (dst : Nat) (bs : List Byte) (s : State) : (s.writeObuf dst bs).ibuf = s.ibuf := rfl
@[simp] theorem State.writeObuf_ibufBytes (dst : Nat) (bs : List Byte) (s : State) : (s.writeObuf dst bs).ibufBytes = s.ibufBytes := rfl
@[simp] theorem State.writeObuf_obufBytes (dst : Nat) (bs : List Byte) (s : State) : (s.writeObuf dst bs).obufBytes = s.obufBytes := rfl
@[simp] theorem State.writeObuf_resets (dst : Nat) (bs : List Byte) (s : State) : (s.writeObuf dst bs).resets = s.resets := rfl
@[simp] theorem State.writeObuf_script (dst : Nat) (bs : List Byte) (s : State) : (s.writeObuf dst bs).script = s.script := rfl
@[simp] theorem State.writeObuf_received (dst : Nat) (bs : List Byte) (s : State) : (s.writeObuf dst bs).received = s.received := rfl
@[simp] theorem State.writeObuf_status (dst : Nat) (bs : List Byte) (s : State) : (s.writeObuf dst bs).status = s.status := rfl

/-! ## The end of a command -/

@[simp] theorem complete_ok_srcOff (i : Instr) (s t : State) : (complete i s (.ok () t)).srcOff = t.srcOff := rfl
@[simp] theorem complete_ok_srcLen (i : Instr) (s t : State) : (complete i s (.ok () t)).srcLen = t.srcLen := rfl
@[simp] theorem complete_ok_dstOff (i : Instr) (s t : State) : (complete i s (.ok () t)).dstOff = t.dstOff := rfl
@[simp] theorem complete_ok_symN (i : Instr) (s t : State) : (complete i s (.ok () t)).symN = t.symN := rfl
@[simp] theorem complete_ok_dstLen (i : Instr) (s t : State) : (complete i s (.ok () t)).dstLen = t.dstLen := rfl
@[simp] theorem complete_ok_origLen (i : Instr) (s t : State) : (complete i s (.ok () t)).origLen = t.origLen := rfl
@[simp] theorem complete_ok_histTotal (i : Instr) (s t : State) : (complete i s (.ok () t)).histTotal = t.histTotal := rfl
@[simp] theorem complete_ok_histNsym (i : Instr) (s t : State) : (complete i s (.ok () t)).histNsym = t.histNsym := rfl
@[simp] theorem complete_ok_nodeCount (i : Instr) (s t : State) : (complete i s (.ok () t)).nodeCount = t.nodeCount := rfl
@[simp] theorem complete_ok_pqCount (i : Instr) (s t : State) : (complete i s (.ok () t)).pqCount = t.pqCount := rfl
@[simp] theorem complete_ok_root (i : Instr) (s t : State) : (complete i s (.ok () t)).root = t.root := rfl
@[simp] theorem complete_ok_codeNsym (i : Instr) (s t : State) : (complete i s (.ok () t)).codeNsym = t.codeNsym := rfl
@[simp] theorem complete_ok_totalBitsLo (i : Instr) (s t : State) : (complete i s (.ok () t)).totalBitsLo = t.totalBitsLo := rfl
@[simp] theorem complete_ok_totalBitsHi (i : Instr) (s t : State) : (complete i s (.ok () t)).totalBitsHi = t.totalBitsHi := rfl
@[simp] theorem complete_ok_hist (i : Instr) (s t : State) : (complete i s (.ok () t)).hist = t.hist := rfl
@[simp] theorem complete_ok_node (i : Instr) (s t : State) : (complete i s (.ok () t)).node = t.node := rfl
@[simp] theorem complete_ok_len (i : Instr) (s t : State) : (complete i s (.ok () t)).len = t.len := rfl
@[simp] theorem complete_ok_code (i : Instr) (s t : State) : (complete i s (.ok () t)).code = t.code := rfl
@[simp] theorem complete_ok_order (i : Instr) (s t : State) : (complete i s (.ok () t)).order = t.order := rfl
@[simp] theorem complete_ok_ibuf (i : Instr) (s t : State) : (complete i s (.ok () t)).ibuf = t.ibuf := rfl
@[simp] theorem complete_ok_obuf (i : Instr) (s t : State) : (complete i s (.ok () t)).obuf = t.obuf := rfl
@[simp] theorem complete_ok_ibufBytes (i : Instr) (s t : State) : (complete i s (.ok () t)).ibufBytes = t.ibufBytes := rfl
@[simp] theorem complete_ok_obufBytes (i : Instr) (s t : State) : (complete i s (.ok () t)).obufBytes = t.obufBytes := rfl
@[simp] theorem complete_ok_resets (i : Instr) (s t : State) : (complete i s (.ok () t)).resets = t.resets := rfl
@[simp] theorem complete_ok_script (i : Instr) (s t : State) : (complete i s (.ok () t)).script = t.script := rfl
@[simp] theorem complete_ok_received (i : Instr) (s t : State) : (complete i s (.ok () t)).received = t.received := rfl
@[simp] theorem complete_ok_status (i : Instr) (s t : State) :
    (complete i s (.ok () t)).status = t.status.succeed (opcodeOf (encode i)) := rfl

@[simp] theorem complete_fail_srcOff (i : Instr) (s : State) (k : FailKind) (t : State) : (complete i s (.fail k t)).srcOff = t.srcOff := rfl
@[simp] theorem complete_fail_srcLen (i : Instr) (s : State) (k : FailKind) (t : State) : (complete i s (.fail k t)).srcLen = t.srcLen := rfl
@[simp] theorem complete_fail_dstOff (i : Instr) (s : State) (k : FailKind) (t : State) : (complete i s (.fail k t)).dstOff = t.dstOff := rfl
@[simp] theorem complete_fail_symN (i : Instr) (s : State) (k : FailKind) (t : State) : (complete i s (.fail k t)).symN = t.symN := rfl
@[simp] theorem complete_fail_dstLen (i : Instr) (s : State) (k : FailKind) (t : State) :
    (complete i s (.fail k t)).dstLen = if isOutput i then 0#32 else t.dstLen := rfl
@[simp] theorem complete_fail_origLen (i : Instr) (s : State) (k : FailKind) (t : State) : (complete i s (.fail k t)).origLen = t.origLen := rfl
@[simp] theorem complete_fail_histTotal (i : Instr) (s : State) (k : FailKind) (t : State) : (complete i s (.fail k t)).histTotal = t.histTotal := rfl
@[simp] theorem complete_fail_histNsym (i : Instr) (s : State) (k : FailKind) (t : State) : (complete i s (.fail k t)).histNsym = t.histNsym := rfl
@[simp] theorem complete_fail_nodeCount (i : Instr) (s : State) (k : FailKind) (t : State) : (complete i s (.fail k t)).nodeCount = t.nodeCount := rfl
@[simp] theorem complete_fail_pqCount (i : Instr) (s : State) (k : FailKind) (t : State) : (complete i s (.fail k t)).pqCount = t.pqCount := rfl
@[simp] theorem complete_fail_root (i : Instr) (s : State) (k : FailKind) (t : State) : (complete i s (.fail k t)).root = t.root := rfl
@[simp] theorem complete_fail_codeNsym (i : Instr) (s : State) (k : FailKind) (t : State) : (complete i s (.fail k t)).codeNsym = t.codeNsym := rfl
@[simp] theorem complete_fail_totalBitsLo (i : Instr) (s : State) (k : FailKind) (t : State) : (complete i s (.fail k t)).totalBitsLo = t.totalBitsLo := rfl
@[simp] theorem complete_fail_totalBitsHi (i : Instr) (s : State) (k : FailKind) (t : State) : (complete i s (.fail k t)).totalBitsHi = t.totalBitsHi := rfl
@[simp] theorem complete_fail_hist (i : Instr) (s : State) (k : FailKind) (t : State) : (complete i s (.fail k t)).hist = t.hist := rfl
@[simp] theorem complete_fail_node (i : Instr) (s : State) (k : FailKind) (t : State) : (complete i s (.fail k t)).node = t.node := rfl
@[simp] theorem complete_fail_len (i : Instr) (s : State) (k : FailKind) (t : State) : (complete i s (.fail k t)).len = t.len := rfl
@[simp] theorem complete_fail_code (i : Instr) (s : State) (k : FailKind) (t : State) : (complete i s (.fail k t)).code = t.code := rfl
@[simp] theorem complete_fail_order (i : Instr) (s : State) (k : FailKind) (t : State) : (complete i s (.fail k t)).order = t.order := rfl
@[simp] theorem complete_fail_ibuf (i : Instr) (s : State) (k : FailKind) (t : State) : (complete i s (.fail k t)).ibuf = t.ibuf := rfl
@[simp] theorem complete_fail_obuf (i : Instr) (s : State) (k : FailKind) (t : State) :
    (complete i s (.fail k t)).obuf = s.obuf := rfl
@[simp] theorem complete_fail_ibufBytes (i : Instr) (s : State) (k : FailKind) (t : State) : (complete i s (.fail k t)).ibufBytes = t.ibufBytes := rfl
@[simp] theorem complete_fail_obufBytes (i : Instr) (s : State) (k : FailKind) (t : State) : (complete i s (.fail k t)).obufBytes = t.obufBytes := rfl
@[simp] theorem complete_fail_resets (i : Instr) (s : State) (k : FailKind) (t : State) : (complete i s (.fail k t)).resets = t.resets := rfl
@[simp] theorem complete_fail_script (i : Instr) (s : State) (k : FailKind) (t : State) : (complete i s (.fail k t)).script = t.script := rfl
@[simp] theorem complete_fail_received (i : Instr) (s : State) (k : FailKind) (t : State) : (complete i s (.fail k t)).received = t.received := rfl
@[simp] theorem complete_fail_status_done (i : Instr) (s : State) (k : FailKind) (t : State) :
    (complete i s (.fail k t)).status.done = (false) := rfl
@[simp] theorem complete_fail_status_fail (i : Instr) (s : State) (k : FailKind) (t : State) :
    (complete i s (.fail k t)).status.fail = (true) := rfl
@[simp] theorem complete_fail_status_tblv (i : Instr) (s : State) (k : FailKind) (t : State) :
    (complete i s (.fail k t)).status.tblv = (t.status.tblv) := rfl
@[simp] theorem complete_fail_status_kind (i : Instr) (s : State) (k : FailKind) (t : State) :
    (complete i s (.fail k t)).status.kind = (some k) := rfl
@[simp] theorem complete_fail_status_dstate (i : Instr) (s : State) (k : FailKind) (t : State) :
    (complete i s (.fail k t)).status.dstate = (if isDecode i then .failed else t.status.dstate) := rfl
@[simp] theorem complete_fail_status_lastop (i : Instr) (s : State) (k : FailKind) (t : State) :
    (complete i s (.fail k t)).status.lastop = (opcodeOf (encode i)) := rfl

end Sys2Proof.Machine
end

