-- ==== Sys2Proof/Laws/Tables.lean ====
section
/-! SUPPORT. The laws of table access: read after write for symbol-indexed tables and for NODE, consecutive writes, and the
list of all symbols. -/

namespace Sys2Proof.Machine

@[simp] theorem getSym_setSym_same {α : Type} (t : SymTable α) (x : Byte) (v : α) : getSym (setSym t x v) x = v := by
  simp [getSym, setSym]

theorem getSym_setSym_other {α : Type} (t : SymTable α) {x y : Byte} (v : α) (h : y ≠ x) :
    getSym (setSym t x v) y = getSym t y := by
  have : x.toNat ≠ y.toNat := fun e => h (BitVec.eq_of_toNat_eq e.symm)
  simp [getSym, setSym, this]

theorem getSym_setSym {α : Type} (t : SymTable α) (x y : Byte) (v : α) :
    getSym (setSym t x v) y = if y = x then v else getSym t y := by
  split
  · next h => subst h; simp
  · next h => exact getSym_setSym_other t v h

@[simp] theorem getSym_replicate {α : Type} (v : α) (x : Byte) : getSym (Vector.replicate 256 v) x = v := by
  simp [getSym]

/-- Two tables with the same entry for every symbol are equal. -/
theorem symTable_ext {α : Type} (t u : SymTable α) (h : ∀ x, getSym t x = getSym u x) : t = u := by
  apply Vector.ext
  intro i hi
  have := h (BitVec.ofNat 8 i)
  simpa [getSym, Nat.mod_eq_of_lt hi] using this

/-- Every symbol value is listed. -/
theorem mem_allSymbols (x : Byte) : x ∈ allSymbols := by
  refine List.mem_map.2 ⟨x.toNat, List.mem_range.2 x.isLt, ?_⟩
  simp

@[simp] theorem allSymbols_length : allSymbols.length = 256 := by simp [allSymbols]

/-- The symbol values are listed in strictly ascending order. -/
theorem allSymbols_sorted : allSymbols.Pairwise (· < ·) := by
  refine List.pairwise_map.2 (List.pairwise_lt_range.imp_of_mem ?_)
  intro a b ha hb hab
  simp only [List.mem_range] at ha hb
  simp only [BitVec.lt_def, BitVec.toNat_ofNat]
  omega

/-- No symbol value is listed twice. -/
theorem allSymbols_nodup : allSymbols.Nodup :=
  allSymbols_sorted.imp fun h => BitVec.ne_of_lt h

/-- What consecutive writes leave below and above. -/
theorem getElem?_fillFrom_outside {α : Type} {n : Nat} (t : Vector α n) (i : Nat) (xs : List α) (j : Nat)
    (h : ¬ (i ≤ j ∧ j < i + xs.length)) : (fillFrom t i xs)[j]? = t[j]? := by
  induction xs generalizing t i with
  | nil => rfl
  | cons x xs ih =>
    simp only [fillFrom, List.length_cons] at *
    rw [ih _ _ (by omega), Vector.getElem?_setIfInBounds_ne (by omega)]

/-- What consecutive writes put, within the table. -/
theorem getElem?_fillFrom_inside {α : Type} {n : Nat} (t : Vector α n) (i : Nat) (xs : List α) (j : Nat)
    (h : j < xs.length) (hn : i + j < n) : (fillFrom t i xs)[i + j]? = some xs[j] := by
  induction xs generalizing t i j with
  | nil => simp at h
  | cons x xs ih =>
    simp only [fillFrom]
    cases j with
    | zero =>
      rw [getElem?_fillFrom_outside _ _ _ _ (by omega)]
      simp [show i < n by omega]
    | succ j =>
      have := ih (t.setIfInBounds i x) (i + 1) j (by simpa using h) (by omega)
      simpa [Nat.add_assoc, Nat.add_comm 1] using this

/-- Reading a NODE entry after writing one. -/
theorem nodeAt_setNode (t : NodeTable) (i j : NodeIdx) (n : Node) (h : i.toNat < 511) :
    nodeAt (setNode t i n) j = if j = i then n else nodeAt t j := by
  unfold nodeAt setNode
  split
  · next e => subst e; simp [h]
  · next e =>
    rw [Vector.getElem?_setIfInBounds_ne]
    exact fun e' => e (BitVec.eq_of_toNat_eq e'.symm)

/-- NIL has no entry. -/
@[simp] theorem nodeAt_nil (t : NodeTable) : nodeAt t Config.nil = Node.free := by
  simp [nodeAt, Config.nil]

end Sys2Proof.Machine
end

