-- ==== Sys2Proof/Laws/Procedures.lean ====
section
/-! SUPPORT. What the procedures can do, said once: the fields each one leaves, and for the procedures that can fail one
lemma with all the ways they end. -/

namespace Sys2Proof.Machine


/-! ## Srst, Hist, Seed, ExtractMin, Merge: fields left alone -/

@[simp] theorem procSrst_srcOff (s : State) : (procSrst s).srcOff = s.srcOff := rfl
@[simp] theorem procSrst_srcLen (s : State) : (procSrst s).srcLen = s.srcLen := rfl
@[simp] theorem procSrst_dstOff (s : State) : (procSrst s).dstOff = s.dstOff := rfl
@[simp] theorem procSrst_symN (s : State) : (procSrst s).symN = s.symN := rfl
@[simp] theorem procSrst_ibuf (s : State) : (procSrst s).ibuf = s.ibuf := rfl
@[simp] theorem procSrst_obuf (s : State) : (procSrst s).obuf = s.obuf := rfl
@[simp] theorem procSrst_ibufBytes (s : State) : (procSrst s).ibufBytes = s.ibufBytes := rfl
@[simp] theorem procSrst_obufBytes (s : State) : (procSrst s).obufBytes = s.obufBytes := rfl
@[simp] theorem procSrst_resets (s : State) : (procSrst s).resets = s.resets := rfl
@[simp] theorem procSrst_script (s : State) : (procSrst s).script = s.script := rfl
@[simp] theorem procSrst_received (s : State) : (procSrst s).received = s.received := rfl
@[simp] theorem procHist_srcOff (off len : Nat) (s : State) : (procHist off len s).srcOff = s.srcOff := rfl
@[simp] theorem procHist_srcLen (off len : Nat) (s : State) : (procHist off len s).srcLen = s.srcLen := rfl
@[simp] theorem procHist_dstOff (off len : Nat) (s : State) : (procHist off len s).dstOff = s.dstOff := rfl
@[simp] theorem procHist_symN (off len : Nat) (s : State) : (procHist off len s).symN = s.symN := rfl
@[simp] theorem procHist_dstLen (off len : Nat) (s : State) : (procHist off len s).dstLen = s.dstLen := rfl
@[simp] theorem procHist_origLen (off len : Nat) (s : State) : (procHist off len s).origLen = s.origLen := rfl
@[simp] theorem procHist_nodeCount (off len : Nat) (s : State) : (procHist off len s).nodeCount = s.nodeCount := rfl
@[simp] theorem procHist_pqCount (off len : Nat) (s : State) : (procHist off len s).pqCount = s.pqCount := rfl
@[simp] theorem procHist_root (off len : Nat) (s : State) : (procHist off len s).root = s.root := rfl
@[simp] theorem procHist_codeNsym (off len : Nat) (s : State) : (procHist off len s).codeNsym = s.codeNsym := rfl
@[simp] theorem procHist_totalBitsLo (off len : Nat) (s : State) : (procHist off len s).totalBitsLo = s.totalBitsLo := rfl
@[simp] theorem procHist_totalBitsHi (off len : Nat) (s : State) : (procHist off len s).totalBitsHi = s.totalBitsHi := rfl
@[simp] theorem procHist_node (off len : Nat) (s : State) : (procHist off len s).node = s.node := rfl
@[simp] theorem procHist_len (off len : Nat) (s : State) : (procHist off len s).len = s.len := rfl
@[simp] theorem procHist_code (off len : Nat) (s : State) : (procHist off len s).code = s.code := rfl
@[simp] theorem procHist_order (off len : Nat) (s : State) : (procHist off len s).order = s.order := rfl
@[simp] theorem procHist_ibuf (off len : Nat) (s : State) : (procHist off len s).ibuf = s.ibuf := rfl
@[simp] theorem procHist_obuf (off len : Nat) (s : State) : (procHist off len s).obuf = s.obuf := rfl
@[simp] theorem procHist_ibufBytes (off len : Nat) (s : State) : (procHist off len s).ibufBytes = s.ibufBytes := rfl
@[simp] theorem procHist_obufBytes (off len : Nat) (s : State) : (procHist off len s).obufBytes = s.obufBytes := rfl
@[simp] theorem procHist_resets (off len : Nat) (s : State) : (procHist off len s).resets = s.resets := rfl
@[simp] theorem procHist_script (off len : Nat) (s : State) : (procHist off len s).script = s.script := rfl
@[simp] theorem procHist_received (off len : Nat) (s : State) : (procHist off len s).received = s.received := rfl
@[simp] theorem procHist_status (off len : Nat) (s : State) : (procHist off len s).status = s.status := rfl
@[simp] theorem procSeed_srcOff (s : State) : (procSeed s).srcOff = s.srcOff := rfl
@[simp] theorem procSeed_srcLen (s : State) : (procSeed s).srcLen = s.srcLen := rfl
@[simp] theorem procSeed_dstOff (s : State) : (procSeed s).dstOff = s.dstOff := rfl
@[simp] theorem procSeed_symN (s : State) : (procSeed s).symN = s.symN := rfl
@[simp] theorem procSeed_dstLen (s : State) : (procSeed s).dstLen = s.dstLen := rfl
@[simp] theorem procSeed_origLen (s : State) : (procSeed s).origLen = s.origLen := rfl
@[simp] theorem procSeed_histTotal (s : State) : (procSeed s).histTotal = s.histTotal := rfl
@[simp] theorem procSeed_histNsym (s : State) : (procSeed s).histNsym = s.histNsym := rfl
@[simp] theorem procSeed_codeNsym (s : State) : (procSeed s).codeNsym = s.codeNsym := rfl
@[simp] theorem procSeed_totalBitsLo (s : State) : (procSeed s).totalBitsLo = s.totalBitsLo := rfl
@[simp] theorem procSeed_totalBitsHi (s : State) : (procSeed s).totalBitsHi = s.totalBitsHi := rfl
@[simp] theorem procSeed_hist (s : State) : (procSeed s).hist = s.hist := rfl
@[simp] theorem procSeed_len (s : State) : (procSeed s).len = s.len := rfl
@[simp] theorem procSeed_code (s : State) : (procSeed s).code = s.code := rfl
@[simp] theorem procSeed_order (s : State) : (procSeed s).order = s.order := rfl
@[simp] theorem procSeed_ibuf (s : State) : (procSeed s).ibuf = s.ibuf := rfl
@[simp] theorem procSeed_obuf (s : State) : (procSeed s).obuf = s.obuf := rfl
@[simp] theorem procSeed_ibufBytes (s : State) : (procSeed s).ibufBytes = s.ibufBytes := rfl
@[simp] theorem procSeed_obufBytes (s : State) : (procSeed s).obufBytes = s.obufBytes := rfl
@[simp] theorem procSeed_resets (s : State) : (procSeed s).resets = s.resets := rfl
@[simp] theorem procSeed_script (s : State) : (procSeed s).script = s.script := rfl
@[simp] theorem procSeed_received (s : State) : (procSeed s).received = s.received := rfl
@[simp] theorem procSeed_status (s : State) : (procSeed s).status = s.status := rfl
@[simp] theorem extractMin_srcOff (s : State) : ((extractMin s).2).srcOff = s.srcOff := rfl
@[simp] theorem extractMin_srcLen (s : State) : ((extractMin s).2).srcLen = s.srcLen := rfl
@[simp] theorem extractMin_dstOff (s : State) : ((extractMin s).2).dstOff = s.dstOff := rfl
@[simp] theorem extractMin_symN (s : State) : ((extractMin s).2).symN = s.symN := rfl
@[simp] theorem extractMin_dstLen (s : State) : ((extractMin s).2).dstLen = s.dstLen := rfl
@[simp] theorem extractMin_origLen (s : State) : ((extractMin s).2).origLen = s.origLen := rfl
@[simp] theorem extractMin_histTotal (s : State) : ((extractMin s).2).histTotal = s.histTotal := rfl
@[simp] theorem extractMin_histNsym (s : State) : ((extractMin s).2).histNsym = s.histNsym := rfl
@[simp] theorem extractMin_nodeCount (s : State) : ((extractMin s).2).nodeCount = s.nodeCount := rfl
@[simp] theorem extractMin_root (s : State) : ((extractMin s).2).root = s.root := rfl
@[simp] theorem extractMin_codeNsym (s : State) : ((extractMin s).2).codeNsym = s.codeNsym := rfl
@[simp] theorem extractMin_totalBitsLo (s : State) : ((extractMin s).2).totalBitsLo = s.totalBitsLo := rfl
@[simp] theorem extractMin_totalBitsHi (s : State) : ((extractMin s).2).totalBitsHi = s.totalBitsHi := rfl
@[simp] theorem extractMin_hist (s : State) : ((extractMin s).2).hist = s.hist := rfl
@[simp] theorem extractMin_len (s : State) : ((extractMin s).2).len = s.len := rfl
@[simp] theorem extractMin_code (s : State) : ((extractMin s).2).code = s.code := rfl
@[simp] theorem extractMin_order (s : State) : ((extractMin s).2).order = s.order := rfl
@[simp] theorem extractMin_ibuf (s : State) : ((extractMin s).2).ibuf = s.ibuf := rfl
@[simp] theorem extractMin_obuf (s : State) : ((extractMin s).2).obuf = s.obuf := rfl
@[simp] theorem extractMin_ibufBytes (s : State) : ((extractMin s).2).ibufBytes = s.ibufBytes := rfl
@[simp] theorem extractMin_obufBytes (s : State) : ((extractMin s).2).obufBytes = s.obufBytes := rfl
@[simp] theorem extractMin_resets (s : State) : ((extractMin s).2).resets = s.resets := rfl
@[simp] theorem extractMin_script (s : State) : ((extractMin s).2).script = s.script := rfl
@[simp] theorem extractMin_received (s : State) : ((extractMin s).2).received = s.received := rfl
@[simp] theorem extractMin_status (s : State) : ((extractMin s).2).status = s.status := rfl
@[simp] theorem procMerge_srcOff (s : State) : (procMerge s).srcOff = s.srcOff := rfl
@[simp] theorem procMerge_srcLen (s : State) : (procMerge s).srcLen = s.srcLen := rfl
@[simp] theorem procMerge_dstOff (s : State) : (procMerge s).dstOff = s.dstOff := rfl
@[simp] theorem procMerge_symN (s : State) : (procMerge s).symN = s.symN := rfl
@[simp] theorem procMerge_dstLen (s : State) : (procMerge s).dstLen = s.dstLen := rfl
@[simp] theorem procMerge_origLen (s : State) : (procMerge s).origLen = s.origLen := rfl
@[simp] theorem procMerge_histTotal (s : State) : (procMerge s).histTotal = s.histTotal := rfl
@[simp] theorem procMerge_histNsym (s : State) : (procMerge s).histNsym = s.histNsym := rfl
@[simp] theorem procMerge_root (s : State) : (procMerge s).root = s.root := rfl
@[simp] theorem procMerge_codeNsym (s : State) : (procMerge s).codeNsym = s.codeNsym := rfl
@[simp] theorem procMerge_totalBitsLo (s : State) : (procMerge s).totalBitsLo = s.totalBitsLo := rfl
@[simp] theorem procMerge_totalBitsHi (s : State) : (procMerge s).totalBitsHi = s.totalBitsHi := rfl
@[simp] theorem procMerge_hist (s : State) : (procMerge s).hist = s.hist := rfl
@[simp] theorem procMerge_len (s : State) : (procMerge s).len = s.len := rfl
@[simp] theorem procMerge_code (s : State) : (procMerge s).code = s.code := rfl
@[simp] theorem procMerge_order (s : State) : (procMerge s).order = s.order := rfl
@[simp] theorem procMerge_ibuf (s : State) : (procMerge s).ibuf = s.ibuf := rfl
@[simp] theorem procMerge_obuf (s : State) : (procMerge s).obuf = s.obuf := rfl
@[simp] theorem procMerge_ibufBytes (s : State) : (procMerge s).ibufBytes = s.ibufBytes := rfl
@[simp] theorem procMerge_obufBytes (s : State) : (procMerge s).obufBytes = s.obufBytes := rfl
@[simp] theorem procMerge_resets (s : State) : (procMerge s).resets = s.resets := rfl
@[simp] theorem procMerge_script (s : State) : (procMerge s).script = s.script := rfl
@[simp] theorem procMerge_received (s : State) : (procMerge s).received = s.received := rfl
@[simp] theorem procMerge_status (s : State) : (procMerge s).status = s.status := rfl

/-- `Merge` lowers PQ_COUNT by one, in any state (R133). -/
@[simp] theorem procMerge_pqCount (s : State) : (procMerge s).pqCount = s.pqCount - 1#9 := by
  show s.pqCount - 1#9 - 1#9 + 1#9 = _
  bv_omega

/-- `Merge` creates one node (R133). -/
@[simp] theorem procMerge_nodeCount (s : State) : (procMerge s).nodeCount = s.nodeCount + 1#9 := rfl


/-! ## Fin, the merge loop, Build: fields left alone -/

@[simp] theorem procFin_srcOff (s : State) : (procFin s).srcOff = s.srcOff := by
  unfold procFin; split
  · rfl
  · simp only []; split <;> rfl
@[simp] theorem procFin_srcLen (s : State) : (procFin s).srcLen = s.srcLen := by
  unfold procFin; split
  · rfl
  · simp only []; split <;> rfl
@[simp] theorem procFin_dstOff (s : State) : (procFin s).dstOff = s.dstOff := by
  unfold procFin; split
  · rfl
  · simp only []; split <;> rfl
@[simp] theorem procFin_symN (s : State) : (procFin s).symN = s.symN := by
  unfold procFin; split
  · rfl
  · simp only []; split <;> rfl
@[simp] theorem procFin_dstLen (s : State) : (procFin s).dstLen = s.dstLen := by
  unfold procFin; split
  · rfl
  · simp only []; split <;> rfl
@[simp] theorem procFin_origLen (s : State) : (procFin s).origLen = s.origLen := by
  unfold procFin; split
  · rfl
  · simp only []; split <;> rfl
@[simp] theorem procFin_histTotal (s : State) : (procFin s).histTotal = s.histTotal := by
  unfold procFin; split
  · rfl
  · simp only []; split <;> rfl
@[simp] theorem procFin_histNsym (s : State) : (procFin s).histNsym = s.histNsym := by
  unfold procFin; split
  · rfl
  · simp only []; split <;> rfl
@[simp] theorem procFin_codeNsym (s : State) : (procFin s).codeNsym = s.codeNsym := by
  unfold procFin; split
  · rfl
  · simp only []; split <;> rfl
@[simp] theorem procFin_totalBitsLo (s : State) : (procFin s).totalBitsLo = s.totalBitsLo := by
  unfold procFin; split
  · rfl
  · simp only []; split <;> rfl
@[simp] theorem procFin_totalBitsHi (s : State) : (procFin s).totalBitsHi = s.totalBitsHi := by
  unfold procFin; split
  · rfl
  · simp only []; split <;> rfl
@[simp] theorem procFin_hist (s : State) : (procFin s).hist = s.hist := by
  unfold procFin; split
  · rfl
  · simp only []; split <;> rfl
@[simp] theorem procFin_len (s : State) : (procFin s).len = s.len := by
  unfold procFin; split
  · rfl
  · simp only []; split <;> rfl
@[simp] theorem procFin_code (s : State) : (procFin s).code = s.code := by
  unfold procFin; split
  · rfl
  · simp only []; split <;> rfl
@[simp] theorem procFin_order (s : State) : (procFin s).order = s.order := by
  unfold procFin; split
  · rfl
  · simp only []; split <;> rfl
@[simp] theorem procFin_ibuf (s : State) : (procFin s).ibuf = s.ibuf := by
  unfold procFin; split
  · rfl
  · simp only []; split <;> rfl
@[simp] theorem procFin_obuf (s : State) : (procFin s).obuf = s.obuf := by
  unfold procFin; split
  · rfl
  · simp only []; split <;> rfl
@[simp] theorem procFin_ibufBytes (s : State) : (procFin s).ibufBytes = s.ibufBytes := by
  unfold procFin; split
  · rfl
  · simp only []; split <;> rfl
@[simp] theorem procFin_obufBytes (s : State) : (procFin s).obufBytes = s.obufBytes := by
  unfold procFin; split
  · rfl
  · simp only []; split <;> rfl
@[simp] theorem procFin_resets (s : State) : (procFin s).resets = s.resets := by
  unfold procFin; split
  · rfl
  · simp only []; split <;> rfl
@[simp] theorem procFin_script (s : State) : (procFin s).script = s.script := by
  unfold procFin; split
  · rfl
  · simp only []; split <;> rfl
@[simp] theorem procFin_received (s : State) : (procFin s).received = s.received := by
  unfold procFin; split
  · rfl
  · simp only []; split <;> rfl
@[simp] theorem procFin_status (s : State) : (procFin s).status = s.status := by
  unfold procFin; split
  · rfl
  · simp only []; split <;> rfl

/-- After `Fin` on at most one queued node the queue is empty (R136). -/
theorem procFin_pqCount (s : State) (h : s.pqCount.toNat ≤ 1) : (procFin s).pqCount = 0#9 := by
  unfold procFin
  split
  · assumption
  · next h0 =>
    have h1 : s.pqCount - 1#9 = 0#9 := by bv_omega
    simp only []
    split <;> exact h1

@[simp] theorem mergeLoop_srcOff (n : Nat) (s : State) : (mergeLoop n s).srcOff = s.srcOff := by
  induction n generalizing s with
  | zero => rfl
  | succ n ih => simp only [mergeLoop]; split <;> simp [ih]
@[simp] theorem mergeLoop_srcLen (n : Nat) (s : State) : (mergeLoop n s).srcLen = s.srcLen := by
  induction n generalizing s with
  | zero => rfl
  | succ n ih => simp only [mergeLoop]; split <;> simp [ih]
@[simp] theorem mergeLoop_dstOff (n : Nat) (s : State) : (mergeLoop n s).dstOff = s.dstOff := by
  induction n generalizing s with
  | zero => rfl
  | succ n ih => simp only [mergeLoop]; split <;> simp [ih]
@[simp] theorem mergeLoop_symN (n : Nat) (s : State) : (mergeLoop n s).symN = s.symN := by
  induction n generalizing s with
  | zero => rfl
  | succ n ih => simp only [mergeLoop]; split <;> simp [ih]
@[simp] theorem mergeLoop_dstLen (n : Nat) (s : State) : (mergeLoop n s).dstLen = s.dstLen := by
  induction n generalizing s with
  | zero => rfl
  | succ n ih => simp only [mergeLoop]; split <;> simp [ih]
@[simp] theorem mergeLoop_origLen (n : Nat) (s : State) : (mergeLoop n s).origLen = s.origLen := by
  induction n generalizing s with
  | zero => rfl
  | succ n ih => simp only [mergeLoop]; split <;> simp [ih]
@[simp] theorem mergeLoop_histTotal (n : Nat) (s : State) : (mergeLoop n s).histTotal = s.histTotal := by
  induction n generalizing s with
  | zero => rfl
  | succ n ih => simp only [mergeLoop]; split <;> simp [ih]
@[simp] theorem mergeLoop_histNsym (n : Nat) (s : State) : (mergeLoop n s).histNsym = s.histNsym := by
  induction n generalizing s with
  | zero => rfl
  | succ n ih => simp only [mergeLoop]; split <;> simp [ih]
@[simp] theorem mergeLoop_root (n : Nat) (s : State) : (mergeLoop n s).root = s.root := by
  induction n generalizing s with
  | zero => rfl
  | succ n ih => simp only [mergeLoop]; split <;> simp [ih]
@[simp] theorem mergeLoop_codeNsym (n : Nat) (s : State) : (mergeLoop n s).codeNsym = s.codeNsym := by
  induction n generalizing s with
  | zero => rfl
  | succ n ih => simp only [mergeLoop]; split <;> simp [ih]
@[simp] theorem mergeLoop_totalBitsLo (n : Nat) (s : State) : (mergeLoop n s).totalBitsLo = s.totalBitsLo := by
  induction n generalizing s with
  | zero => rfl
  | succ n ih => simp only [mergeLoop]; split <;> simp [ih]
@[simp] theorem mergeLoop_totalBitsHi (n : Nat) (s : State) : (mergeLoop n s).totalBitsHi = s.totalBitsHi := by
  induction n generalizing s with
  | zero => rfl
  | succ n ih => simp only [mergeLoop]; split <;> simp [ih]
@[simp] theorem mergeLoop_hist (n : Nat) (s : State) : (mergeLoop n s).hist = s.hist := by
  induction n generalizing s with
  | zero => rfl
  | succ n ih => simp only [mergeLoop]; split <;> simp [ih]
@[simp] theorem mergeLoop_len (n : Nat) (s : State) : (mergeLoop n s).len = s.len := by
  induction n generalizing s with
  | zero => rfl
  | succ n ih => simp only [mergeLoop]; split <;> simp [ih]
@[simp] theorem mergeLoop_code (n : Nat) (s : State) : (mergeLoop n s).code = s.code := by
  induction n generalizing s with
  | zero => rfl
  | succ n ih => simp only [mergeLoop]; split <;> simp [ih]
@[simp] theorem mergeLoop_order (n : Nat) (s : State) : (mergeLoop n s).order = s.order := by
  induction n generalizing s with
  | zero => rfl
  | succ n ih => simp only [mergeLoop]; split <;> simp [ih]
@[simp] theorem mergeLoop_ibuf (n : Nat) (s : State) : (mergeLoop n s).ibuf = s.ibuf := by
  induction n generalizing s with
  | zero => rfl
  | succ n ih => simp only [mergeLoop]; split <;> simp [ih]
@[simp] theorem mergeLoop_obuf (n : Nat) (s : State) : (mergeLoop n s).obuf = s.obuf := by
  induction n generalizing s with
  | zero => rfl
  | succ n ih => simp only [mergeLoop]; split <;> simp [ih]
@[simp] theorem mergeLoop_ibufBytes (n : Nat) (s : State) : (mergeLoop n s).ibufBytes = s.ibufBytes := by
  induction n generalizing s with
  | zero => rfl
  | succ n ih => simp only [mergeLoop]; split <;> simp [ih]
@[simp] theorem mergeLoop_obufBytes (n : Nat) (s : State) : (mergeLoop n s).obufBytes = s.obufBytes := by
  induction n generalizing s with
  | zero => rfl
  | succ n ih => simp only [mergeLoop]; split <;> simp [ih]
@[simp] theorem mergeLoop_resets (n : Nat) (s : State) : (mergeLoop n s).resets = s.resets := by
  induction n generalizing s with
  | zero => rfl
  | succ n ih => simp only [mergeLoop]; split <;> simp [ih]
@[simp] theorem mergeLoop_script (n : Nat) (s : State) : (mergeLoop n s).script = s.script := by
  induction n generalizing s with
  | zero => rfl
  | succ n ih => simp only [mergeLoop]; split <;> simp [ih]
@[simp] theorem mergeLoop_received (n : Nat) (s : State) : (mergeLoop n s).received = s.received := by
  induction n generalizing s with
  | zero => rfl
  | succ n ih => simp only [mergeLoop]; split <;> simp [ih]
@[simp] theorem mergeLoop_status (n : Nat) (s : State) : (mergeLoop n s).status = s.status := by
  induction n generalizing s with
  | zero => rfl
  | succ n ih => simp only [mergeLoop]; split <;> simp [ih]

/-- The merge loop ends with at most one queued node when it may run once for each (R138). -/
theorem mergeLoop_pqCount (n : Nat) (s : State) (h : s.pqCount.toNat ≤ n) : (mergeLoop n s).pqCount.toNat ≤ 1 := by
  induction n generalizing s with
  | zero => simp only [mergeLoop]; omega
  | succ n ih =>
    simp only [mergeLoop]
    split
    · next h2 =>
      apply ih
      simp only [procMerge_pqCount]
      bv_omega
    · bv_omega

@[simp] theorem procBuild_srcOff (s : State) : (procBuild s).srcOff = s.srcOff := by simp [procBuild]
@[simp] theorem procBuild_srcLen (s : State) : (procBuild s).srcLen = s.srcLen := by simp [procBuild]
@[simp] theorem procBuild_dstOff (s : State) : (procBuild s).dstOff = s.dstOff := by simp [procBuild]
@[simp] theorem procBuild_symN (s : State) : (procBuild s).symN = s.symN := by simp [procBuild]
@[simp] theorem procBuild_dstLen (s : State) : (procBuild s).dstLen = s.dstLen := by simp [procBuild]
@[simp] theorem procBuild_origLen (s : State) : (procBuild s).origLen = s.origLen := by simp [procBuild]
@[simp] theorem procBuild_histTotal (s : State) : (procBuild s).histTotal = s.histTotal := by simp [procBuild]
@[simp] theorem procBuild_histNsym (s : State) : (procBuild s).histNsym = s.histNsym := by simp [procBuild]
@[simp] theorem procBuild_codeNsym (s : State) : (procBuild s).codeNsym = s.codeNsym := by simp [procBuild]
@[simp] theorem procBuild_totalBitsLo (s : State) : (procBuild s).totalBitsLo = s.totalBitsLo := by simp [procBuild]
@[simp] theorem procBuild_totalBitsHi (s : State) : (procBuild s).totalBitsHi = s.totalBitsHi := by simp [procBuild]
@[simp] theorem procBuild_hist (s : State) : (procBuild s).hist = s.hist := by simp [procBuild]
@[simp] theorem procBuild_len (s : State) : (procBuild s).len = s.len := by simp [procBuild]
@[simp] theorem procBuild_code (s : State) : (procBuild s).code = s.code := by simp [procBuild]
@[simp] theorem procBuild_order (s : State) : (procBuild s).order = s.order := by simp [procBuild]
@[simp] theorem procBuild_ibuf (s : State) : (procBuild s).ibuf = s.ibuf := by simp [procBuild]
@[simp] theorem procBuild_obuf (s : State) : (procBuild s).obuf = s.obuf := by simp [procBuild]
@[simp] theorem procBuild_ibufBytes (s : State) : (procBuild s).ibufBytes = s.ibufBytes := by simp [procBuild]
@[simp] theorem procBuild_obufBytes (s : State) : (procBuild s).obufBytes = s.obufBytes := by simp [procBuild]
@[simp] theorem procBuild_resets (s : State) : (procBuild s).resets = s.resets := by simp [procBuild]
@[simp] theorem procBuild_script (s : State) : (procBuild s).script = s.script := by simp [procBuild]
@[simp] theorem procBuild_received (s : State) : (procBuild s).received = s.received := by simp [procBuild]
@[simp] theorem procBuild_status (s : State) : (procBuild s).status = s.status := by simp [procBuild]

/-- `Build` leaves nothing queued (R138, R140). -/
@[simp] theorem procBuild_pqCount (s : State) : (procBuild s).pqCount = 0#9 :=
  procFin_pqCount _ (mergeLoop_pqCount _ _ (Nat.le_refl _))


/-! ## Depth and Canon -/

@[simp] theorem procDepth_srcOff (s : State) : (procDepth s).srcOff = s.srcOff := rfl
@[simp] theorem procDepth_srcLen (s : State) : (procDepth s).srcLen = s.srcLen := rfl
@[simp] theorem procDepth_dstOff (s : State) : (procDepth s).dstOff = s.dstOff := rfl
@[simp] theorem procDepth_symN (s : State) : (procDepth s).symN = s.symN := rfl
@[simp] theorem procDepth_dstLen (s : State) : (procDepth s).dstLen = s.dstLen := rfl
@[simp] theorem procDepth_origLen (s : State) : (procDepth s).origLen = s.origLen := rfl
@[simp] theorem procDepth_histTotal (s : State) : (procDepth s).histTotal = s.histTotal := rfl
@[simp] theorem procDepth_histNsym (s : State) : (procDepth s).histNsym = s.histNsym := rfl
@[simp] theorem procDepth_nodeCount (s : State) : (procDepth s).nodeCount = s.nodeCount := rfl
@[simp] theorem procDepth_pqCount (s : State) : (procDepth s).pqCount = s.pqCount := rfl
@[simp] theorem procDepth_root (s : State) : (procDepth s).root = s.root := rfl
@[simp] theorem procDepth_codeNsym (s : State) : (procDepth s).codeNsym = s.codeNsym := rfl
@[simp] theorem procDepth_totalBitsLo (s : State) : (procDepth s).totalBitsLo = s.totalBitsLo := rfl
@[simp] theorem procDepth_totalBitsHi (s : State) : (procDepth s).totalBitsHi = s.totalBitsHi := rfl
@[simp] theorem procDepth_hist (s : State) : (procDepth s).hist = s.hist := rfl
@[simp] theorem procDepth_node (s : State) : (procDepth s).node = s.node := rfl
@[simp] theorem procDepth_code (s : State) : (procDepth s).code = s.code := rfl
@[simp] theorem procDepth_order (s : State) : (procDepth s).order = s.order := rfl
@[simp] theorem procDepth_ibuf (s : State) : (procDepth s).ibuf = s.ibuf := rfl
@[simp] theorem procDepth_obuf (s : State) : (procDepth s).obuf = s.obuf := rfl
@[simp] theorem procDepth_ibufBytes (s : State) : (procDepth s).ibufBytes = s.ibufBytes := rfl
@[simp] theorem procDepth_obufBytes (s : State) : (procDepth s).obufBytes = s.obufBytes := rfl
@[simp] theorem procDepth_resets (s : State) : (procDepth s).resets = s.resets := rfl
@[simp] theorem procDepth_script (s : State) : (procDepth s).script = s.script := rfl
@[simp] theorem procDepth_received (s : State) : (procDepth s).received = s.received := rfl
@[simp] theorem procDepth_len (s : State) : (procDepth s).len = depthTable s.node s.root := rfl
@[simp] theorem procDepth_status (s : State) : (procDepth s).status = { s.status with tblv := false } := rfl

/-- The two ways `Canon` ends (R154). -/
theorem procCanon_cases (s : State) :
    (kraftOk ((sortedSymbols s.len).map fun x => (getSym s.len x).toNat) = true ∧
      procCanon s = .ok () { s with
        code := assignCodes s.len (sortedSymbols s.len) (Vector.replicate 256 0#255)
        order := fillFrom (Vector.replicate 256 0#8) 0 (sortedSymbols s.len)
        codeNsym := BitVec.ofNat 9 (sortedSymbols s.len).length
        status := { s.status with tblv := true } }) ∨
    (kraftOk ((sortedSymbols s.len).map fun x => (getSym s.len x).toNat) = false ∧
      procCanon s = .fail .inconsistentCodeLengths { s with status := { s.status with tblv := false } }) := by
  cases h : kraftOk ((sortedSymbols s.len).map fun x => (getSym s.len x).toNat) with
  | true => exact .inl ⟨rfl, by simp [procCanon, h, State.setTblv]⟩
  | false => exact .inr ⟨rfl, by simp [procCanon, h, State.setTblv]⟩


/-! ## Pack and Unpack -/

/-- The three ways `Pack` ends (R171). -/
theorem procPack_cases (off len dst : Nat) (s : State) :
    ((∃ x ∈ s.ibufRange off len, getSym s.len x = 0#8) ∧ procPack off len dst s = .fail .badState s) ∨
    ((∀ x ∈ s.ibufRange off len, getSym s.len x ≠ 0#8) ∧
      ((s.obufBytes.toNat < dst + bytesFor (totalBits s.len (s.ibufRange off len)) ∧
          procPack off len dst s = .fail .bufferOverflow s) ∨
        (dst + bytesFor (totalBits s.len (s.ibufRange off len)) ≤ s.obufBytes.toNat ∧
          procPack off len dst s = .ok (bytesFor (totalBits s.len (s.ibufRange off len)))
            { s.writeObuf dst (packBytes (symbolBits s.len s.code (s.ibufRange off len))
                (bytesFor (totalBits s.len (s.ibufRange off len)))) with
              totalBitsLo := BitVec.ofNat 32 (totalBits s.len (s.ibufRange off len))
              totalBitsHi := BitVec.ofNat 8 (totalBits s.len (s.ibufRange off len) / 2 ^ 32) }))) := by
  by_cases h : ∃ x ∈ s.ibufRange off len, getSym s.len x = 0#8
  · refine .inl ⟨h, ?_⟩
    have : ((s.ibufRange off len).any fun x => getSym s.len x == 0#8) = true := by simpa using h
    simp [procPack, this]
  · have h' : ∀ x ∈ s.ibufRange off len, getSym s.len x ≠ 0#8 := fun x hx e => h ⟨x, hx, e⟩
    have h0 : ((s.ibufRange off len).any fun x => getSym s.len x == 0#8) = false := by simpa using h'
    refine .inr ⟨h', ?_⟩
    by_cases hf : dst + bytesFor (totalBits s.len (s.ibufRange off len)) ≤ s.obufBytes.toNat
    · exact .inr ⟨hf, by simp [procPack, h0, State.outputFits, hf]⟩
    · exact .inl ⟨by omega, by simp [procPack, h0, State.outputFits, hf]⟩

/-- The two ways `Unpack` ends (R174). -/
theorem procUnpack_cases (off len n dst : Nat) (s : State) :
    (∃ k, readSymbols s.len s.code n (streamBits (s.ibufRange off len)) = .error k ∧
      procUnpack off len n dst s = .fail k s) ∨
    (∃ out, readSymbols s.len s.code n (streamBits (s.ibufRange off len)) = .ok out ∧
      procUnpack off len n dst s = .ok n (s.writeObuf dst out)) := by
  cases h : readSymbols s.len s.code n (streamBits (s.ibufRange off len)) with
  | error k => exact .inl ⟨k, rfl, by simp [procUnpack, h]⟩
  | ok out => exact .inr ⟨out, rfl, by simp [procUnpack, h]⟩

/-- `Unpack` answers as many symbols as it was asked for (R174). -/
theorem readSymbols_length (l : SymTable Byte) (c : SymTable Code) (n : Nat) (bits : List Bool) (out : List Byte)
    (h : readSymbols l c n bits = .ok out) : out.length = n := by
  induction n generalizing bits out with
  | zero => simp only [readSymbols, Except.ok.injEq] at h; simp [← h]
  | succ n ih =>
    simp only [readSymbols] at h
    split at h
    · simp at h
    · next x rest hx =>
      split at h
      · simp at h
      · next xs hxs =>
        simp only [Except.ok.injEq] at h
        simp [← h, ih _ _ hxs]

/-- A symbol is read only as TruncatedPayload or UnassignedCode, or with fewer bits left (R174). -/
theorem readSymbol_cases (l : SymTable Byte) (c : SymTable Code) (bits : List Bool) (acc n : Nat) :
    readSymbol l c bits acc n = .error .truncatedPayload ∨ readSymbol l c bits acc n = .error .unassignedCode ∨
    ∃ x rest, readSymbol l c bits acc n = .ok (x, rest) ∧ rest.length < bits.length := by
  induction bits generalizing acc n with
  | nil => exact .inl rfl
  | cons b bs ih =>
    simp only [readSymbol]
    split
    · next x _ => exact .inr (.inr ⟨x, bs, rfl, by simp⟩)
    · rcases ih (2 * acc + b.toNat) (n + 1) with h | h | ⟨x, rest, h, hl⟩
      · exact .inl h
      · exact .inr (.inl h)
      · exact .inr (.inr ⟨x, rest, h, by simp; omega⟩)
    · exact .inr (.inl rfl)


/-! ## Sequencing -/

@[simp] theorem Proc.andThen_ok {α β : Type} (a : α) (s : State) (f : α → State → Proc β) :
    (Proc.ok a s).andThen f = f a s := rfl

@[simp] theorem Proc.andThen_fail {α β : Type} (k : FailKind) (s : State) (f : α → State → Proc β) :
    (Proc.fail k s : Proc α).andThen f = .fail k s := rfl

end Sys2Proof.Machine
end

