-- ==== Sys2Proof/Laws/Steps.lean ====
section
/-! SUPPORT. One step said once: how the script drives the machine, and that each command answers a next state. -/

namespace Sys2Proof.Machine

/-- Idle: nothing changes (spec/00_scope.md R8). -/
theorem step_idle (s : State) (h : s.script = []) : step s = .next s := by simp [step, h]

/-- Otherwise the next event is taken off the script and performed. -/
theorem step_event (s : State) (e : Event) (rest : List Event) (h : s.script = e :: rest) :
    step s = perform e { s with script := rest } := by simp [step, h]

@[simp] theorem perform_readWord (sp : WordSpace) (i : Nat) (s : State) :
    perform (.readWord sp i) s = .next (receive (.word (hostReadWord s sp i)) s) := rfl

@[simp] theorem perform_readByte (sp : ByteSpace) (i : Nat) (s : State) :
    perform (.readByte sp i) s = .next (receive (.byte (hostReadByte s sp i)) s) := rfl

@[simp] theorem perform_writeByte (sp : ByteSpace) (i : Nat) (v : Byte) (s : State) :
    perform (.writeByte sp i v) s = .next (hostWriteByte sp i v s) := rfl

@[simp] theorem perform_hardReset (s : State) : perform .hardReset s = .next (hardReset s) := rfl

/-- A CMD write executes its word (spec/10_state.md R25). -/
@[simp] theorem perform_cmdWrite (w : Word) (s : State) : perform (cmdWrite w) s = execute w s := rfl

/-- A write of any other CSR. -/
theorem perform_csrWrite (i : Nat) (v : Word) (s : State) (h : i ≠ cmdIndex) :
    perform (.writeWord .csr i v) s = .next (csrStore s i v) := by simp [perform, hostWriteWord, h]

theorem execute_command (w : Word) (i : Instr) (s : State) (h : decode w = .command i) : execute w s = exec i s := by
  simp [execute, h]

theorem execute_illegal (w : Word) (r : IllegalWord) (s : State) (h : decode w = .illegal r) :
    execute w s = .next (illegalCommand w s) := by
  simp [execute, h]

end Sys2Proof.Machine
end

