-- ==== Sys2Proof/Laws/Words.lean ====
section
/-! SUPPORT. The laws of the two fields of a command word and of the bit order of payloads: packing bits into bytes and
reading the bytes' stream bits gives the bits back. -/

namespace Sys2Proof

@[simp] theorem CmdFields.ofWord_opcode (w : Word) : (CmdFields.ofWord w).opcode = w.extractLsb' 0 8 := rfl

@[simp] theorem CmdFields.ofWord_zero (w : Word) : (CmdFields.ofWord w).zero = w.extractLsb' 8 24 := rfl

/-- A word is its two fields put together. -/
theorem CmdFields.toWord_ofWord (w : Word) : (CmdFields.ofWord w).toWord = w := by
  apply BitVec.eq_of_getLsbD_eq
  intro i hi
  simp only [CmdFields.ofWord, CmdFields.toWord, BitVec.getLsbD_append, BitVec.getLsbD_extractLsb', Nat.zero_add]
  split
  · next h => simp [h]
  · next h =>
    have h1 : i - 8 < 24 := by omega
    have h2 : 8 + (i - 8) = i := by omega
    simp [h1, h2]

/-- The fields of a word put together from two fields are those fields. -/
theorem CmdFields.ofWord_toWord (f : CmdFields) : CmdFields.ofWord f.toWord = f := by
  obtain ⟨op, z⟩ := f
  simp only [CmdFields.ofWord, CmdFields.toWord, CmdFields.mk.injEq]
  constructor
  · apply BitVec.eq_of_getLsbD_eq
    intro i hi
    simp only [BitVec.getLsbD_extractLsb', BitVec.getLsbD_append, Nat.zero_add, hi, decide_true, Bool.true_and, if_true]
  · apply BitVec.eq_of_getLsbD_eq
    intro i hi
    have h1 : ¬ (8 + i < 8) := by omega
    simp only [BitVec.getLsbD_extractLsb', BitVec.getLsbD_append, hi, decide_true, Bool.true_and, h1, if_false,
      Nat.add_sub_cancel_left]

namespace Machine

@[simp] theorem packBytes_length (bits : List Bool) (n : Nat) : (packBytes bits n).length = n := by
  simp [packBytes]

@[simp] theorem streamBits_length (p : List Byte) : (streamBits p).length = 8 * p.length := by simp [streamBits]

@[simp] theorem codeBits_length (l : Byte) (c : Code) : (codeBits l c).length = l.toNat := by simp [codeBits]

/-- The sum of R171 for eight bits, bit by bit. -/
theorem packSum_testBit (f : Nat → Bool) (k : Nat) (hk : k < 8) :
    (BitVec.ofNat 8 (((List.range 8).map fun b => (f b).toNat * 2 ^ (7 - b)).sum)).getLsbD (7 - k) = f k := by
  have key : ∀ a b c d e g h i : Bool, ∀ k, k < 8 →
      (BitVec.ofNat 8 (a.toNat * 2 ^ 7 + (b.toNat * 2 ^ 6 + (c.toNat * 2 ^ 5 + (d.toNat * 2 ^ 4 + (e.toNat * 2 ^ 3 +
        (g.toNat * 2 ^ 2 + (h.toNat * 2 ^ 1 + (i.toNat * 2 ^ 0 + 0))))))))).getLsbD (7 - k)
        = [a, b, c, d, e, g, h, i].getD k false := by decide
  have h8 : (List.range 8) = [0, 1, 2, 3, 4, 5, 6, 7] := rfl
  rw [h8]
  simp only [List.map_cons, List.map_nil, List.sum_cons, List.sum_nil]
  have := key (f 0) (f 1) (f 2) (f 3) (f 4) (f 5) (f 6) (f 7) k hk
  simp only [show 7 - 0 = 7 from rfl, show 7 - 1 = 6 from rfl, show 7 - 2 = 5 from rfl, show 7 - 3 = 4 from rfl,
    show 7 - 4 = 3 from rfl, show 7 - 5 = 2 from rfl, show 7 - 6 = 1 from rfl, show 7 - 7 = 0 from rfl]
  rw [this]
  match k, hk with
  | 0, _ | 1, _ | 2, _ | 3, _ | 4, _ | 5, _ | 6, _ | 7, _ => rfl

/-- Stream bit t of packed bytes is bit t of the stream, 0 past its end (R63, R171). -/
theorem streamBit_packBytes (bits : List Bool) (n t : Nat) (h : t < 8 * n) :
    streamBit (packBytes bits n) t = bits.getD t false := by
  have hq : t / 8 < n := by omega
  have ht : t % 8 < 8 := Nat.mod_lt _ (by omega)
  have hget : (packBytes bits n).getD (t / 8) 0#8 = packByte bits (t / 8) := by
    simp [packBytes, List.getD_eq_getElem?_getD, hq]
  simp only [streamBit, hget, packByte]
  rw [packSum_testBit (fun b => bits.getD (8 * (t / 8) + b) false) (t % 8) ht, Nat.div_add_mod]

end Machine

end Sys2Proof
end

