-- ==== Sys2Proof/Tests/Slice0.lean ====
section
/-! SUPPORT. Tests: the WellFormed smoke, the words of the opcode table, one-step tests whose expected values are those of
spec/95_test_vectors.md (the vector is named), and one witness for the hypotheses of each statement. -/

set_option Elab.async false -- one theorem at a time: each kernel evaluation waiting in a thread of its own holds a large stack

namespace Sys2Proof.Tests

open Sys2Proof Sys2Proof.Machine

/-! ## WellFormed smoke: one ill-formed term for each check -/

theorem test_wf_refuses_reserved_bits : CmdFields.zeroOk ⟨0x00#8, 0x000001#24⟩ = false := by decide
theorem test_wf_refuses_unlisted_opcode : CmdFields.opcodeOk ⟨0x11#8, 0#24⟩ = false := by decide
theorem test_wf_refuses_either : CmdFields.wf ⟨0x60#8, 0x800000#24⟩ = false ∧ CmdFields.wf ⟨0xFF#8, 0#24⟩ = false ∧
    CmdFields.wf ⟨0x60#8, 0#24⟩ = true := by decide

/-! ## Decoding: each row's 32 bits, written out from spec/30_encoding.md R81 -/

theorem test_decode_nop : decode 0b00000000000000000000000000000000#32 = .command .nop := by decide
theorem test_decode_srst : decode 0b00000000000000000000000000000001#32 = .command .srst := by decide
theorem test_decode_hist : decode 0b00000000000000000000000000010000#32 = .command .hist := by decide
theorem test_decode_tseed : decode 0b00000000000000000000000000100000#32 = .command .tseed := by decide
theorem test_decode_tmerge : decode 0b00000000000000000000000000100001#32 = .command .tmerge := by decide
theorem test_decode_tfin : decode 0b00000000000000000000000000100010#32 = .command .tfin := by decide
theorem test_decode_tbuild : decode 0b00000000000000000000000000100011#32 = .command .tbuild := by decide
theorem test_decode_clen : decode 0b00000000000000000000000000110000#32 = .command .clen := by decide
theorem test_decode_ccanon : decode 0b00000000000000000000000000110001#32 = .command .ccanon := by decide
theorem test_decode_cgen : decode 0b00000000000000000000000000110010#32 = .command .cgen := by decide
theorem test_decode_pack : decode 0b00000000000000000000000001000000#32 = .command .pack := by decide
theorem test_decode_unpack : decode 0b00000000000000000000000001010000#32 = .command .unpack := by decide
theorem test_decode_encode : decode 0b00000000000000000000000001100000#32 = .command .encode := by decide
theorem test_decode_decode : decode 0b00000000000000000000000001110000#32 = .command .decode := by decide
theorem test_decode_rejects : decode 0x00000011#32 = .illegal .unassignedOpcode ∧
    decode 0x80000060#32 = .illegal .reservedBits := by decide
theorem test_decodeTableWord : decodeTableWord 32 0x60 = some .encode ∧ decodeTableWord 32 0x160 = none := by decide

/-! ## Helpers: small states -/

/-- The reset state of a machine with 64-byte buffers. -/
def base : State := { State.reset with ibufBytes := 64#32, obufBytes := 64#32 }

/-- A symbol-indexed table with the listed entries. -/
def table {α : Type} (zero : α) : List (Byte × α) → SymTable α
  | [] => Vector.replicate 256 zero
  | (x, v) :: xs => setSym (table zero xs) x v

/-- A NODE table with the listed entries from index 0. -/
def nodes (ns : List Node) : NodeTable := fillFrom (Vector.replicate 511 Node.free) 0 ns

def leaf (x : Byte) (f : Freq) (q : Bool) : Node :=
  { kind := .leaf, inq := q, sym := x, freq := f, left := 0x1FF#9, right := 0x1FF#9 }

def inner (f : Freq) (l r : NodeIdx) (q : Bool) : Node :=
  { kind := .internal, inq := q, sym := 0#8, freq := f, left := l, right := r }

/-- The next state of a command. -/
def after (i : Instr) (s : State) : State :=
  match exec i s with
  | .next t => t
  | .fault _ => s
  | .refused _ => s

/-- STATUS after a command. -/
def statusAfter (i : Instr) (s : State) : Word := (after i s).status.toWord

/-- IBUF holding these bytes from 0, and SRC_LEN their number. -/
def withInput (bs : List Byte) (s : State) : State :=
  { s with ibuf := Memory.writeAll [] 0 bs, srcLen := BitVec.ofNat 32 bs.length }

/-- "cad", the input of vector H3. -/
def cad : State := withInput [0x63#8, 0x61#8, 0x64#8] base

/-- Two queued leaves. -/
def forest : State :=
  { base with
    hist := table 0#32 [(0x61#8, 2#32), (0x62#8, 1#32)]
    node := nodes [leaf 0x61#8 2#40 true, leaf 0x62#8 1#40 true]
    nodeCount := 2#9, pqCount := 2#9 }

/-- One queued leaf. -/
def lone : State :=
  { base with
    hist := table 0#32 [(0x61#8, 4#32)]
    node := nodes [leaf 0x61#8 4#40 true]
    nodeCount := 1#9, pqCount := 1#9 }

/-- The two leaves merged, their parent still queued. -/
def joined : State :=
  { base with
    node := nodes [leaf 0x61#8 2#40 false, leaf 0x62#8 1#40 false, inner 3#40 1#9 0#9 true]
    nodeCount := 3#9, pqCount := 1#9 }

/-- The finished tree over the two leaves. -/
def rooted : State :=
  { base with
    node := nodes [leaf 0x61#8 2#40 false, leaf 0x62#8 1#40 false, inner 3#40 1#9 0#9 false]
    nodeCount := 3#9, pqCount := 0#9, root := 2#9 }

/-- The lengths of vector K4. -/
def k4Len : SymTable Byte := table 0#8 [(0x41#8, 2#8), (0x42#8, 1#8), (0x43#8, 3#8), (0x44#8, 3#8)]

/-- K4's table, valid: 42 = `0`, 41 = `10`, 43 = `110`, 44 = `111`. -/
def k4 : State :=
  { base with
    len := k4Len
    code := table 0#255 [(0x41#8, 2#255), (0x43#8, 6#255), (0x44#8, 7#255)]
    order := fillFrom (Vector.replicate 256 0#8) 0 [0x42#8, 0x41#8, 0x43#8, 0x44#8]
    codeNsym := 4#9
    status := { Status.reset with tblv := true } }

/-- K4's table with the input "ABCDBBA" of vector B2. -/
def k4In : State := withInput [0x41#8, 0x42#8, 0x43#8, 0x44#8, 0x42#8, 0x42#8, 0x41#8] k4

/-- K4's table with the payload 9B 90 of vector U2. -/
def k4Payload (n : Word) : State := { withInput [0x9B#8, 0x90#8] k4 with symN := n }

/-- The input of vector E5, "ab". -/
def ab : State := withInput [0x61#8, 0x62#8] base

/-- The artifact of vector E5. -/
def e5 : List Byte :=
  [0x48#8, 0x55#8, 0x46#8, 0x31#8, 2#8, 0#8, 0#8, 0#8, 2#8, 0#8, 0x61#8, 1#8, 0x62#8, 1#8, 0x40#8]

/-- The artifact of vector D10, whose output is the byte 62. -/
def d10 : List Byte :=
  [0x48#8, 0x55#8, 0x46#8, 0x31#8, 1#8, 0#8, 0#8, 0#8, 2#8, 0#8, 0x61#8, 1#8, 0x62#8, 1#8, 0x80#8]

/-! ## One step per command -/

/-- X1. -/
theorem test_nop_status : statusAfter .nop base = 0x00000001#32 := by decide +kernel
/-- X2. -/
theorem test_srst_status : statusAfter .srst k4 = 0x00010001#32 := by decide +kernel
/-- X8: SRST clears the tables and keeps the operands. -/
theorem test_srst_clears : getSym (after .srst k4In).len 0x44#8 = 0#8 ∧
    getSym (after .srst k4In).code 0x44#8 = 0#255 ∧ (after .srst k4In).srcLen = 7#32 := by
  decide +kernel
/-- X3, X6: illegal words through the step. -/
theorem test_illegal_words :
    (match step (base.withFetchWord 32 0x11) with | .next t => t.status.toWord | _ => 0#32) = 0x00110062#32 ∧
    (match step (base.withFetchWord 32 0x80000060) with | .next t => t.status.toWord | _ => 0#32) = 0x00600062#32 := by
  decide +kernel
/-- H3. -/
theorem test_hist_cad : getSym (after .hist cad).hist 0x61#8 = 1#32 ∧ getSym (after .hist cad).hist 0x62#8 = 0#32 ∧
    (after .hist cad).histTotal = 3#32 ∧ (after .hist cad).histNsym = 3#9 := by decide +kernel
/-- H7, H8: the range check is over the naturals. -/
theorem test_hist_overflow : statusAfter .hist { cad with srcOff := 0xFFFFFFFF#32, srcLen := 0xFFFFFFFF#32 } = 0x00100052#32 := by
  decide +kernel
/-- T13's first entry and counts, with the table of T4. -/
theorem test_tseed : (List.range 4).map (fun w => hostReadWord (after .tseed forest) .node (4 + w)) =
      [0x00000001#32, 0x00620500#32, 0x01FF01FF#32, 0#32] ∧ (after .tseed forest).pqCount = 2#9 := by decide +kernel
/-- T4: the smaller count is `left`. -/
theorem test_tmerge : (List.range 4).map (fun w => hostReadWord (after .tmerge forest) .node (8 + w)) =
      [0x00000003#32, 0x00000600#32, 0x00000001#32, 0#32] ∧ (after .tmerge forest).pqCount = 1#9 := by decide +kernel
/-- T19. -/
theorem test_tmerge_bad_state : statusAfter .tmerge lone = 0x00210072#32 := by decide +kernel
/-- T20: the synthetic root. -/
theorem test_tfin_lone : (List.range 4).map (fun w => hostReadWord (after .tfin lone) .node (4 + w)) =
      [0x00000004#32, 0x00000200#32, 0x01FF0000#32, 0#32] ∧ (after .tfin lone).root = 1#9 := by decide +kernel
/-- T15. -/
theorem test_tfin_bad_state : statusAfter .tfin forest = 0x00220072#32 := by decide +kernel
/-- T7: on the tie at freq 2, leaf 3 goes before the new node 4. -/
theorem test_tbuild_tie : (hostReadWord (after .tbuild { base with
      hist := table 0#32 [(0#8, 1#32), (1#8, 1#32), (2#8, 1#32), (3#8, 2#32)] }) .node (4 * 5 + 2)) = 0x00030002#32 := by
  decide +kernel
/-- L3. -/
theorem test_clen : getSym (after .clen rooted).len 0x61#8 = 1#8 ∧ getSym (after .clen rooted).len 0x62#8 = 1#8 ∧
    statusAfter .clen rooted = 0x00300001#32 := by decide +kernel
/-- K4. -/
theorem test_ccanon_k4 : ([0x41#8, 0x42#8, 0x43#8, 0x44#8].map (getSym (after .ccanon { base with len := k4Len }).code)) =
      [2#255, 0#255, 6#255, 7#255] ∧
    (after .ccanon { base with len := k4Len }).order.toList.take 5 = [0x42#8, 0x41#8, 0x43#8, 0x44#8, 0#8] := by
  decide +kernel
/-- K11: the exact test sees the smallest possible excess. -/
theorem test_ccanon_k11 : statusAfter .ccanon { base with
    len := table 0#8 [(1#8, 1#8), (2#8, 2#8), (3#8, 2#8), (4#8, 255#8)] } = 0x00310022#32 := by decide +kernel
/-- L3 then K14's pattern for two symbols: codes `0` and `1`. -/
theorem test_cgen : getSym (after .cgen rooted).code 0x62#8 = 1#255 ∧ statusAfter .cgen rooted = 0x00320005#32 := by
  decide +kernel
/-- B2. -/
theorem test_pack_b2 : (after .pack k4In).obufRange 0 2 = [0x9B#8, 0x90#8] ∧ (after .pack k4In).dstLen = 2#32 ∧
    (after .pack k4In).totalBitsLo = 13#32 := by decide +kernel
/-- B9's shape: a byte without a code. -/
theorem test_pack_no_code : statusAfter .pack (withInput [0x41#8, 0x7A#8] k4) = 0x00400076#32 := by decide +kernel
/-- U2, U3. -/
theorem test_unpack_u2 : (after .unpack (k4Payload 7#32)).obufRange 0 7 =
    [0x41#8, 0x42#8, 0x43#8, 0x44#8, 0x42#8, 0x42#8, 0x41#8] := by decide +kernel
/-- U5. -/
theorem test_unpack_u5 : statusAfter .unpack (k4Payload 11#32) = 0x00500036#32 := by decide +kernel
/-- E5. -/
theorem test_encode_e5 : (after .encode ab).obufRange 0 15 = e5 ∧ (after .encode ab).dstLen = 15#32 ∧
    statusAfter .encode ab = 0x00600005#32 ∧ (after .encode ab).status.done = true := by decide +kernel
/-- E12. -/
theorem test_encode_range : statusAfter .encode { ab with srcOff := 63#32 } = 0x00600052#32 := by decide +kernel
/-- D10. -/
theorem test_decode_d10 : (after .decode (withInput d10 base)).obufRange 0 1 = [0x62#8] ∧
    statusAfter .decode (withInput d10 base) = 0x00700405#32 := by decide +kernel
/-- F7. -/
theorem test_decode_f7 : statusAfter .decode
    (withInput [0x48#8, 0x55#8, 0x46#8, 0x31#8, 0#8, 0#8, 0#8, 0#8, 1#8, 1#8] base) = 0x00700512#32 := by decide +kernel

/-! ## Host access -/

/-- X9 to X11. -/
theorem test_csr_access : hostReadWord base .csr 0 = 0x31465548#32 ∧ hostReadWord base .csr 1 = 0#32 ∧
    perform (.writeWord .csr 0 0#32) base = .next base ∧ hostReadWord (csrStore base 7 5#32) .csr 7 = 0#32 := by
  refine ⟨by decide +kernel, rfl, rfl, rfl⟩
/-- A5. -/
theorem test_len_write : (match perform (.writeWord .len 0x41 0x00000103#32) k4 with
    | .next t => (hostReadWord t .len 0x41, t.status.tblv) | _ => (0#32, true)) = (3#32, false) := by decide +kernel
/-- A7: the Internal node of spec/30_encoding.md R96's last example. -/
theorem test_node_words : (List.range 4).map (nodeWord (inner 11#40 0#9 7#9 false)) =
    [0x0000000B#32, 0x00000200#32, 0x00070000#32, 0#32] := by decide +kernel
/-- K9: word 7 of a 255-bit code. -/
theorem test_code_words : codeWord (BitVec.ofNat 255 (2 ^ 254 + 1)) 7 = 0x40000000#32 ∧
    codeWord (BitVec.ofNat 255 (2 ^ 254 + 1)) 0 = 1#32 := by decide +kernel

/-! ## Witnesses: for each statement with hypotheses, a state and operands that meet them together -/

theorem exec_after (i : Instr) (s : State) : exec i s = .next (after i s) := by cases i <;> rfl

theorem witness_EncodedCommandDecodesToItself : Instr.tmerge.wf = true := rfl

theorem witness_CommandHasOneWord : decode 0x00000010#32 = .command .hist := by decide

/-- An empty script, a host read that comes next, and a CMD write that does. -/
theorem witness_StepRunsTheDecodedCommand :
    base.script = [] ∧ ({ base with script := [.readWord .hist 255] } : State).script = .readWord .hist 255 :: [] ∧
    (base.withFetchWord 32 0x60).script = .writeWord .csr 1 0x60#32 :: [] ∧ decode 0x60#32 = .command .encode :=
  ⟨rfl, rfl, rfl, by decide⟩

/-- One word for each disjunct: the lowest reserved bit set with a listed opcode, and an unlisted opcode. -/
theorem witness_IllegalWordChangesOnlyStatus :
    (base.withFetchWord 32 0x100).script = .writeWord .csr 1 0x100#32 :: [] ∧ (0x100#32).extractLsb' 8 24 ≠ 0#24 ∧
    (0x71#32).extractLsb' 0 8 ∉ [0x00#8, 0x01#8, 0x10#8, 0x20#8, 0x21#8, 0x22#8, 0x23#8, 0x30#8, 0x31#8, 0x32#8,
        0x40#8, 0x50#8, 0x60#8, 0x70#8] := ⟨rfl, by decide, by decide⟩

theorem witness_HardwareResetForgetsAllButParameters :
    ({ k4In with script := [.hardReset] } : State).script = .hardReset :: [] := rfl

/-- The last index inside and the first outside each space. -/
theorem witness_HostReadsHaveNoSideEffect :
    (0xFF#8 : Byte).toNat = 255 ∧ 63 < base.ibufBytes.toNat ∧ 63 < base.obufBytes.toNat ∧ 17 ≤ 17 ∧
    256 ≤ 256 ∧ 2048 ≤ 2048 ∧ 2044 ≤ 2044 ∧ base.ibufBytes.toNat ≤ 64 ∧ base.obufBytes.toNat ≤ 64 := by decide

/-- The boundary indices of each clause. -/
theorem witness_CsrAccessRights :
    17 ≤ 17 ∧ ((2 ≠ 1 ∧ (2 < 3 ∨ 7 ≤ 2)) ∧ (7 ≠ 1 ∧ (7 < 3 ∨ 7 ≤ 7))) ∧ (3 ≤ 3 ∧ 3 ≤ 6) ∧ (3 ≤ 6 ∧ 6 ≤ 6) := by decide

theorem witness_TableWritesStoreOneEntry : (0x42#8 : Byte) ≠ 0x41#8 ∧ 256 ≤ 256 := by decide

theorem witness_BufferWritesStoreOneByte : 63 < base.ibufBytes.toNat ∧ base.ibufBytes.toNat ≤ 64 := by decide

theorem witness_NodeEntryIsFourWords : 510 < 511 := by decide

theorem witness_CommandsKeepTheHostSide : exec .encode ab = .next (after .encode ab) := exec_after _ _

/-- After a failure the old STATUS differs in every field that is forgotten. -/
theorem witness_PreviousOutcomeIsForgotten :
    (Status.failWith 0x70#8 .badState k4.status).tblv = k4.status.tblv ∧
      (Status.failWith 0x70#8 .badState k4.status).dstate = k4.status.dstate := ⟨rfl, rfl⟩

/-- A failing output command, a failing DECODE and a failing command that is neither. -/
theorem witness_FailedCommandLeavesNoOutput :
    (exec .pack base = .next (after .pack base) ∧ (after .pack base).status.fail = true) ∧
    (exec .decode base = .next (after .decode base) ∧ (after .decode base).status.fail = true) ∧
    (exec .tmerge lone = .next (after .tmerge lone) ∧ (after .tmerge lone).status.fail = true) :=
  ⟨⟨exec_after _ _, by decide +kernel⟩, ⟨exec_after _ _, by decide +kernel⟩, ⟨exec_after _ _, by decide +kernel⟩⟩

/-- Past the listed nodes a table of `nodes` is Free. -/
theorem entry_nodes_past (ns : List Node) (i : Nat) (h : i < 511) (hi : ns.length ≤ i) : entry (nodes ns) i = Node.free := by
  unfold entry nodes
  rw [getElem?_fillFrom_outside _ _ _ _ (by omega)]
  simp [h]

theorem leafCount_forest : leafCount forest.node = 2 := by decide +kernel
theorem leafCount_lone : leafCount lone.node = 1 := by decide +kernel
theorem leafCount_joined : leafCount joined.node = 2 := by decide +kernel
theorem leafCount_rooted : leafCount rooted.node = 2 := by decide +kernel

theorem treeOk_forest : TreeOk forest := by
  constructor
  case unused => exact fun i h hi => entry_nodes_past _ i h hi
  case one_parent => set_option synthInstance.maxSize 1000 in decide +kernel
  all_goals (try simp only [leafCount_forest]); decide +kernel
theorem treeOk_lone : TreeOk lone := by
  constructor
  case unused => exact fun i h hi => entry_nodes_past _ i h hi
  case one_parent => set_option synthInstance.maxSize 1000 in decide +kernel
  all_goals (try simp only [leafCount_lone]); decide +kernel
theorem treeOk_joined : TreeOk joined := by
  constructor
  case unused => exact fun i h hi => entry_nodes_past _ i h hi
  case one_parent => set_option synthInstance.maxSize 1000 in decide +kernel
  all_goals (try simp only [leafCount_joined]); decide +kernel
theorem treeOk_rooted : TreeOk rooted := by
  constructor
  case unused => exact fun i h hi => entry_nodes_past _ i h hi
  case one_parent => set_option synthInstance.maxSize 1000 in decide +kernel
  all_goals (try simp only [leafCount_rooted]); decide +kernel

theorem witness_FailureKindsByCommand :
    TreeOk forest ∧ exec .tfin forest = .next (after .tfin forest) ∧
      (after .tfin forest).status.kind = some .badState := ⟨treeOk_forest, exec_after _ _, by decide +kernel⟩

theorem witness_HistCountsTheInputBytes : cad.srcOff.toNat + cad.srcLen.toNat ≤ cad.ibufBytes.toNat := by decide

theorem witness_HistCountersSumToHistTotal :
    cad.srcOff.toNat + cad.srcLen.toNat ≤ cad.ibufBytes.toNat ∧ exec .hist cad = .next (after .hist cad) :=
  ⟨by decide, exec_after _ _⟩

/-- One byte past the end. -/
theorem witness_HistRangeFailureChangesOnlyStatus :
    ({ cad with srcOff := 62#32 } : State).ibufBytes.toNat <
      ({ cad with srcOff := 62#32 } : State).srcOff.toNat + ({ cad with srcOff := 62#32 } : State).srcLen.toNat := by decide

theorem witness_FrameOfHistAndTreeCommands :
    Instr.tbuild ∈ [Instr.hist, .tseed, .tmerge, .tfin, .tbuild] ∧ exec .tbuild forest = .next (after .tbuild forest) :=
  ⟨by decide, exec_after _ _⟩

theorem witness_TseedQueuesOneLeafPerSymbol :
    [0x61#8, 0x62#8][1]? = some 0x62#8 ∧ [0x61#8, 0x62#8].length ≤ 2 := by decide

theorem witness_TmergeJoinsTheTwoLeast : TreeOk forest ∧ 2 ≤ forest.pqCount.toNat := ⟨treeOk_forest, by decide⟩

theorem witness_TmergeAndTfinBadState : lone.pqCount.toNat < 2 ∧ 2 ≤ forest.pqCount.toNat := by decide

/-- Nothing queued, one Leaf queued, one Internal node queued. -/
theorem witness_TfinMakesTheRoot :
    (TreeOk rooted ∧ rooted.pqCount.toNat ≤ 1 ∧ rooted.pqCount = 0#9) ∧
    (TreeOk lone ∧ lone.pqCount.toNat ≤ 1 ∧ lone.pqCount = 1#9) ∧
    (TreeOk joined ∧ joined.pqCount.toNat ≤ 1 ∧ joined.pqCount = 1#9 ∧ (entry joined.node 2).kind = .internal) :=
  ⟨⟨treeOk_rooted, by decide, by decide⟩, ⟨treeOk_lone, by decide, by decide⟩, ⟨treeOk_joined, by decide, by decide, by decide +kernel⟩⟩

/-- k = 0, 1 and 2 present symbols. -/
theorem witness_TbuildNodeCountAndRoot :
    (presentSymbols base.hist).length = 0 ∧ (presentSymbols lone.hist).length = 1 ∧
      2 ≤ (presentSymbols forest.hist).length := by decide +kernel

theorem witness_RootReachesEveryNode : TreeOk rooted ∧ rooted.root ≠ 0x1FF#9 ∧ 0 < rooted.nodeCount.toNat :=
  ⟨treeOk_rooted, by decide, by decide⟩

/-- A tree without and one with a root; in the second, a Leaf at distance 1 and a symbol without a Leaf. -/
theorem witness_ClenWritesLeafDepths :
    (TreeOk forest ∧ forest.root = 0x1FF#9) ∧
    (TreeOk rooted ∧ rooted.root ≠ 0x1FF#9 ∧ 1 < rooted.nodeCount.toNat ∧ (entry rooted.node 1).kind = .leaf ∧
      AtDepth rooted.node rooted.root.toNat 1 1 ∧
      ∀ i, i < rooted.nodeCount.toNat → (entry rooted.node i).kind = .leaf → (entry rooted.node i).sym ≠ 0x63#8) :=
  ⟨⟨treeOk_forest, by decide⟩, treeOk_rooted, by decide, by decide, by decide +kernel,
    .child .root (by decide +kernel), by decide +kernel⟩

/-- Vector K11. -/
theorem witness_CcanonKraftFailure :
    2 ^ 255 < tableKraft (table 0#8 [(1#8, 1#8), (2#8, 2#8), (3#8, 2#8), (4#8, 255#8)]) := by decide +kernel

theorem witness_CgenNeverFailsOnABuiltTree : TreeOk rooted := treeOk_rooted

theorem witness_FrameOfCodeTableCommands :
    Instr.cgen ∈ [Instr.clen, .ccanon, .cgen] ∧ exec .cgen rooted = .next (after .cgen rooted) :=
  ⟨by decide, exec_after _ _⟩

/-- The hypotheses of a successful PACK, on vector B2. -/
theorem witness_PackWritesCodesMsbFirst :
    k4In.status.tblv = true ∧ k4In.srcOff.toNat + k4In.srcLen.toNat ≤ k4In.ibufBytes.toNat ∧
    (∀ x ∈ k4In.ibufRange k4In.srcOff.toNat k4In.srcLen.toNat, getSym k4In.len x ≠ 0#8) ∧
    k4In.dstOff.toNat + (totalBits k4In.len (k4In.ibufRange k4In.srcOff.toNat k4In.srcLen.toNat) + 7) / 8
      ≤ k4In.obufBytes.toNat := by decide +kernel

/-- One state for each failure of PACK. -/
theorem witness_PackFailuresInOrder :
    base.status.tblv = false ∧
    (let s : State := { k4In with srcOff := 58#32 }
     s.status.tblv = true ∧ ¬ s.srcOff.toNat + s.srcLen.toNat ≤ s.ibufBytes.toNat) ∧
    (let s := withInput [0x41#8, 0x7A#8] k4
     s.status.tblv = true ∧ s.srcOff.toNat + s.srcLen.toNat ≤ s.ibufBytes.toNat ∧
      ∃ x ∈ s.ibufRange s.srcOff.toNat s.srcLen.toNat, getSym s.len x = 0#8) ∧
    (let s : State := { k4In with dstOff := 63#32 }
     s.status.tblv = true ∧ s.srcOff.toNat + s.srcLen.toNat ≤ s.ibufBytes.toNat ∧
      (∀ x ∈ s.ibufRange s.srcOff.toNat s.srcLen.toNat, getSym s.len x ≠ 0#8) ∧
      s.obufBytes.toNat < s.dstOff.toNat + (totalBits s.len (s.ibufRange s.srcOff.toNat s.srcLen.toNat) + 7) / 8) := by
  decide +kernel

theorem k4_codedSymbols : codedSymbols k4.len = [0x41#8, 0x42#8, 0x43#8, 0x44#8] := by decide +kernel

theorem k4_coded (x : Byte) : getSym k4.len x ≠ 0#8 ↔ x ∈ [0x41#8, 0x42#8, 0x43#8, 0x44#8] := by
  rw [← k4_codedSymbols]
  simp [codedSymbols, mem_allSymbols]

/-- K4's table, made by CCANON of K4's lengths, meets the code-table invariant. -/
theorem tableOk_k4 : TableOk k4 where
  fits _ x hx := by
    have h : ∀ a ∈ [0x41#8, 0x42#8, 0x43#8, 0x44#8], (getSym k4.code a).toNat < 2 ^ (getSym k4.len a).toNat := by
      decide +kernel
    exact h x ((k4_coded x).1 hx)
  absent _ x hx := by
    have h : ¬ x ∈ [0x41#8, 0x42#8, 0x43#8, 0x44#8] := fun e => (k4_coded x).2 e hx
    simp only [List.mem_cons, List.not_mem_nil, or_false, not_or] at h
    simp only [k4, table]
    rw [getSym_setSym_other _ _ h.1, getSym_setSym_other _ _ h.2.2.1, getSym_setSym_other _ _ h.2.2.2, getSym_replicate]
  kraft _ := by rw [tableKraft, k4_codedSymbols]; decide +kernel
  prefix_free _ x y h hx hy := by
    have hp : ∀ a ∈ [0x41#8, 0x42#8, 0x43#8, 0x44#8], ∀ b ∈ [0x41#8, 0x42#8, 0x43#8, 0x44#8], a ≠ b →
        ¬ CodePrefix (getSym k4.len a).toNat (getSym k4.code a).toNat (getSym k4.len b).toNat (getSym k4.code b).toNat := by
      decide +kernel
    exact hp x ((k4_coded x).1 hx) y ((k4_coded y).1 hy) h
  nsym _ := by rw [k4_codedSymbols]; decide
  order _ := ⟨[0x42#8, 0x41#8, 0x43#8, 0x44#8], by decide +kernel,
    fun x => by rw [k4_coded]; simp; grind, by decide +kernel⟩

theorem witness_CcanonAssignsCanonicalCodes : tableKraft k4.len ≤ 2 ^ 255 := tableOk_k4.kraft rfl

/-- The invariant does not read IBUF or the operands. -/
theorem tableOk_withInput {s : State} (h : TableOk s) (bs : List Byte) (n : Word) :
    TableOk { withInput bs s with symN := n } :=
  ⟨h.fits, h.absent, h.kraft, h.prefix_free, h.nsym, h.order⟩

/-- Vector U2: the seven symbols of "ABCDBBA". -/
theorem witness_UnpackEmitsTheEncodedSymbols :
    let s := k4Payload 7#32
    let out := [0x41#8, 0x42#8, 0x43#8, 0x44#8, 0x42#8, 0x42#8, 0x41#8]
    TableOk s ∧ s.status.tblv = true ∧ s.srcOff.toNat + s.srcLen.toNat ≤ s.ibufBytes.toNat ∧
    s.dstOff.toNat + s.symN.toNat ≤ s.obufBytes.toNat ∧ out.length = s.symN.toNat ∧
    (∀ x ∈ out, getSym s.len x ≠ 0#8) ∧
    symbolBits s.len s.code out <+: streamBits (s.ibufRange s.srcOff.toNat s.srcLen.toNat) :=
  ⟨tableOk_withInput tableOk_k4 _ _, by decide, by decide, by decide, by decide, by decide +kernel, by decide +kernel⟩

/-- The failures before any bit is read; then payload 9B: three whole symbols ABC and `11`, the start of D's code, left over. -/
theorem witness_UnpackFailuresInOrder :
    base.status.tblv = false ∧
    (let s : State := { k4Payload 7#32 with srcOff := 63#32 }
     s.status.tblv = true ∧ ¬ s.srcOff.toNat + s.srcLen.toNat ≤ s.ibufBytes.toNat) ∧
    (let s : State := { k4Payload 7#32 with dstOff := 58#32 }
     s.status.tblv = true ∧ s.srcOff.toNat + s.srcLen.toNat ≤ s.ibufBytes.toNat ∧
      ¬ s.dstOff.toNat + s.symN.toNat ≤ s.obufBytes.toNat) ∧
    (let s : State := { withInput [0x9B#8] k4 with symN := 4#32 }
     let out := [0x41#8, 0x42#8, 0x43#8]
     let rest := [true, true]
     s.status.tblv = true ∧ TableOk s ∧ s.srcOff.toNat + s.srcLen.toNat ≤ s.ibufBytes.toNat ∧
      s.dstOff.toNat + s.symN.toNat ≤ s.obufBytes.toNat ∧ out.length < s.symN.toNat ∧
      (∀ x ∈ out, getSym s.len x ≠ 0#8) ∧
      streamBits (s.ibufRange s.srcOff.toNat s.srcLen.toNat) = symbolBits s.len s.code out ++ rest ∧
      (getSym s.len 0x44#8 ≠ 0#8 ∧ rest.length < (getSym s.len 0x44#8).toNat ∧
        rest <+: codeBits (getSym s.len 0x44#8) (getSym s.code 0x44#8))) :=
  ⟨by decide, by decide, by decide, by decide, tableOk_withInput tableOk_k4 _ _, by decide, by decide, by decide,
    by decide +kernel, by decide +kernel, by decide +kernel⟩

/-- K2's table, 61 = `0`, and the payload 40 of vector U21: one symbol, then `1`, which no code begins with. -/
def k2 : State :=
  { base with
    len := table 0#8 [(0x61#8, 1#8)], order := fillFrom (Vector.replicate 256 0#8) 0 [0x61#8], codeNsym := 1#9
    status := { Status.reset with tblv := true } }

theorem k2_codedSymbols : codedSymbols k2.len = [0x61#8] := by decide +kernel

theorem k2_coded (x : Byte) : getSym k2.len x ≠ 0#8 ↔ x = 0x61#8 := by
  have h : x ∈ codedSymbols k2.len ↔ x ∈ [0x61#8] := by rw [k2_codedSymbols]
  simpa [codedSymbols, mem_allSymbols] using h

theorem tableOk_k2 : TableOk k2 where
  fits _ x hx := by
    have h : (getSym k2.code 0x61#8).toNat < 2 ^ (getSym k2.len 0x61#8).toNat := by decide +kernel
    exact (k2_coded x).1 hx ▸ h
  absent _ x _ := getSym_replicate _ x
  kraft _ := by rw [tableKraft, k2_codedSymbols]; decide +kernel
  prefix_free _ x y h hx hy := absurd (((k2_coded x).1 hx).trans ((k2_coded y).1 hy).symm) h
  nsym _ := by rw [k2_codedSymbols]; decide
  order _ := ⟨[0x61#8], by decide +kernel, fun x => by rw [k2_coded]; simp, by decide +kernel⟩

theorem witness_UnpackFailuresInOrder_dead :
    let s : State := { withInput [0x40#8] k2 with symN := 2#32 }
    let out := [0x61#8]
    let rest := [true, false, false, false, false, false, false]
    TableOk s ∧ out.length < s.symN.toNat ∧ (∀ x ∈ out, getSym s.len x ≠ 0#8) ∧
    streamBits (s.ibufRange s.srcOff.toNat s.srcLen.toNat) = symbolBits s.len s.code out ++ rest ∧ rest ≠ [] ∧
    ∀ y, getSym s.len y ≠ 0#8 →
      ¬ codeBits (getSym s.len y) (getSym s.code y) <+: rest ∧ ¬ rest <+: codeBits (getSym s.len y) (getSym s.code y) :=
  ⟨tableOk_withInput tableOk_k2 _ _, by decide, by decide +kernel, by decide +kernel, by decide, fun y hy => by
    obtain rfl := (k2_coded y).1 hy
    decide +kernel⟩

theorem witness_FrameOfPackAndUnpack :
    Instr.unpack ∈ [Instr.pack, .unpack] ∧ exec .unpack (k4Payload 7#32) = .next (after .unpack (k4Payload 7#32)) :=
  ⟨by decide, exec_after _ _⟩

/-- PACK does not touch the code table. -/
theorem pack_keeps_table (s : State) : (after .pack s).len = s.len ∧ (after .pack s).code = s.code := by
  simp only [after, exec, execPack, cmdPack]
  rcases procPack_cases s.srcOff.toNat s.srcLen.toNat s.dstOff.toNat s with ⟨-, h⟩ | ⟨-, ⟨-, h⟩ | ⟨-, h⟩⟩ <;>
    rw [h] <;> repeat' split
  all_goals simp [Proc.andThen]

/-- HIST and PACK of the same seven bytes. -/
theorem witness_PackedBitsAreTheWeightedLengths :
    exec .hist k4In = .next (after .hist k4In) ∧ (after .hist k4In).status.done = true ∧
      exec .pack k4In = .next (after .pack k4In) ∧ (after .pack k4In).status.done = true :=
  ⟨exec_after _ _, by decide +kernel, exec_after _ _, by decide +kernel⟩

/-- PACK of vector B2, its two bytes presented to UNPACK at another offset. -/
theorem witness_UnpackInvertsPack :
    let s := k4In
    let t := after .pack k4In
    let u : State := { k4Payload 7#32 with ibuf := [(5, 0x9B#8), (6, 0x90#8)], srcOff := 5#32, dstOff := 9#32 }
    TableOk s ∧ exec .pack s = .next t ∧ t.status.done = true ∧ u.len = t.len ∧ u.code = t.code ∧
    u.status.tblv = true ∧ u.symN = s.srcLen ∧ u.srcLen = t.dstLen ∧
    u.srcOff.toNat + u.srcLen.toNat ≤ u.ibufBytes.toNat ∧ u.dstOff.toNat + u.symN.toNat ≤ u.obufBytes.toNat ∧
    u.ibufRange u.srcOff.toNat u.srcLen.toNat = t.obufRange s.dstOff.toNat t.dstLen.toNat := by
  refine ⟨tableOk_withInput tableOk_k4 _ 0#32, exec_after _ _, ?_, (pack_keeps_table k4In).1.symm,
    (pack_keeps_table k4In).2.symm, by decide, by decide, ?_, by decide, by decide, ?_⟩
  all_goals decide +kernel

/-- The same payload without its last byte. -/
theorem witness_UnpackReportsAMissingLastByte :
    let s := k4In
    let t := after .pack k4In
    let u : State := { withInput [0x9B#8] k4 with symN := 7#32 }
    TableOk s ∧ exec .pack s = .next t ∧ t.status.done = true ∧ 1 ≤ s.srcLen.toNat ∧ u.len = t.len ∧ u.code = t.code ∧
    u.status.tblv = true ∧ u.symN = s.srcLen ∧ u.srcLen.toNat + 1 = t.dstLen.toNat ∧
    u.srcOff.toNat + u.srcLen.toNat ≤ u.ibufBytes.toNat ∧ u.dstOff.toNat + u.symN.toNat ≤ u.obufBytes.toNat ∧
    u.ibufRange u.srcOff.toNat u.srcLen.toNat = t.obufRange s.dstOff.toNat u.srcLen.toNat := by
  refine ⟨tableOk_withInput tableOk_k4 _ 0#32, exec_after _ _, ?_, by decide, (pack_keeps_table k4In).1.symm,
    (pack_keeps_table k4In).2.symm, by decide, by decide, ?_, by decide, by decide, ?_⟩
  all_goals decide +kernel

/-- An input in range; the room needed is 15 of the 64 bytes (vector E5), and with DST_OFF = 50 there is too little. -/
theorem witness_EncodeWritesTheArtifact :
    ab.srcOff.toNat + ab.srcLen.toNat ≤ ab.ibufBytes.toNat ∧ ab.dstOff.toNat + 15 ≤ ab.obufBytes.toNat := by decide

theorem no_room (s t0 : State) (xs : List Byte) (h1 : s.obufBytes = 64#32) (h2 : s.dstOff = 55#32) :
    s.obufBytes.toNat < s.dstOff.toNat + (10 + 2 * t0.codeNsym.toNat + (totalBits t0.len xs + 7) / 8) := by
  rw [h1, h2]
  simp only [BitVec.toNat_ofNat]
  omega

/-- Check 1 fails with SRC_OFF = 63; check 2 fails with DST_OFF = 55, since every artifact has ten bytes. -/
theorem witness_EncodeFailures :
    (let s : State := { ab with srcOff := 63#32 }
     s.ibufBytes.toNat < s.srcOff.toNat + s.srcLen.toNat) ∧
    (let s : State := { ab with dstOff := 55#32 }
     s.srcOff.toNat + s.srcLen.toNat ≤ s.ibufBytes.toNat ∧
      ∃ t0, execAll [.hist, .tbuild, .cgen] s = some t0 ∧
        s.obufBytes.toNat < s.dstOff.toNat + (10 + 2 * t0.codeNsym.toNat +
          (totalBits t0.len (s.ibufRange s.srcOff.toNat s.srcLen.toNat) + 7) / 8)) := by
  refine ⟨by decide, by decide, after .cgen (after .tbuild (after .hist { ab with dstOff := 55#32 })), ?_, ?_⟩
  · simp only [execAll, exec_after]
  · exact no_room _ _ _ rfl rfl

theorem witness_EmptyInputEncodesToTenBytes :
    let s : State := { base with srcOff := 64#32, dstOff := 54#32 }
    s.srcLen = 0#32 ∧ s.srcOff.toNat ≤ s.ibufBytes.toNat ∧ s.dstOff.toNat + 10 ≤ s.obufBytes.toNat := by decide

/-- "aaaa" (vector E3). -/
theorem witness_LoneSymbolEncodesToZeroBits :
    let s := withInput [0x61#8, 0x61#8, 0x61#8, 0x61#8] base
    1 ≤ s.srcLen.toNat ∧ s.srcOff.toNat + s.srcLen.toNat ≤ s.ibufBytes.toNat ∧
    s.ibufRange s.srcOff.toNat s.srcLen.toNat = List.replicate s.srcLen.toNat 0x61#8 ∧
    s.dstOff.toNat + 12 + (s.srcLen.toNat + 7) / 8 ≤ s.obufBytes.toNat := by decide +kernel

/-- "ab" elsewhere in IBUF of a state with a tree, lengths and operands of its own. -/
def abElsewhere : State :=
  { rooted with len := k4Len, ibuf := [(3, 0x61#8), (4, 0x62#8)], srcOff := 3#32, srcLen := 2#32, dstOff := 9#32 }

/-- The same input in two states; ENCODE succeeds in both. -/
theorem witness_ArtifactDependsOnTheInputAlone :
    ab.ibufRange ab.srcOff.toNat ab.srcLen.toNat =
        abElsewhere.ibufRange abElsewhere.srcOff.toNat abElsewhere.srcLen.toNat ∧
      exec .encode ab = .next (after .encode ab) ∧ exec .encode abElsewhere = .next (after .encode abElsewhere) ∧
      (after .encode ab).status.done = true ∧ (after .encode abElsewhere).status.done = true :=
  ⟨by decide +kernel, exec_after _ _, exec_after _ _, test_encode_e5.2.2.2, by decide +kernel⟩

/-- An artifact with this symbolCount and symbol table, originalLength 1. -/
def artifact (n : Byte) (rest : List Byte) : State :=
  withInput ([0x48#8, 0x55#8, 0x46#8, 0x31#8, 1#8, 0#8, 0#8, 0#8] ++ n :: rest) base

/-- One artifact for each failure before the table commit: range, each header test at its boundary, a zero length, a
repeated symbol, and Kraft 3/2 (vectors F15, F3, F1, F7, F5, F8, F9, F6). -/
theorem witness_DecodeRejectsBadHeaders :
    (¬ ({ ab with srcOff := 63#32 } : State).srcOff.toNat + ab.srcLen.toNat ≤ ab.ibufBytes.toNat) ∧
    (artifact 0#8 []).srcLen.toNat < 10 ∧ artByte ab 0 ≠ 0x48#8 ∧
    256 < artCount (artifact 1#8 [1#8]) ∧
    (artifact 1#8 [0#8, 0x61#8]).srcLen.toNat < 10 + 2 * artCount (artifact 1#8 [0#8, 0x61#8]) ∧
    (HeaderOk (artifact 1#8 [0#8, 0x61#8, 0#8, 0#8]) ∧ artLen (artifact 1#8 [0#8, 0x61#8, 0#8, 0#8]) 0 = 0#8) ∧
    (HeaderOk (artifact 2#8 [0#8, 0x61#8, 1#8, 0x61#8, 2#8]) ∧
      artSym (artifact 2#8 [0#8, 0x61#8, 1#8, 0x61#8, 2#8]) 0 = artSym (artifact 2#8 [0#8, 0x61#8, 1#8, 0x61#8, 2#8]) 1) ∧
    (let s := artifact 3#8 [0#8, 0x61#8, 1#8, 0x62#8, 1#8, 0x63#8, 1#8]
     HeaderOk s ∧ 2 ^ 255 < ((List.range (artCount s)).map fun i => 2 ^ (255 - (artLen s i).toNat)).sum) := by decide +kernel

/-- The table of vector D10's header, 61 and 62 with length 1, valid in some state. -/
def d10Len : SymTable Byte := table 0#8 [(0x61#8, 1#8), (0x62#8, 1#8)]

/-- CCANON succeeds when the Kraft test passes. -/
theorem ccanon_done (s : State) (h : kraftOk ((sortedSymbols s.len).map fun x => (getSym s.len x).toNat) = true) :
    (after .ccanon s).status.done = true := by
  simp only [after, exec, execCcanon]
  rcases procCanon_cases s with ⟨-, e⟩ | ⟨e, -⟩
  · rw [e]
    rfl
  · rw [h] at e
    cases e

theorem headerTable_d10 (dst : Word) (bs : List Byte) (h : bs ∈ [d10, d10.take 14]) :
    let s : State := { withInput bs base with dstOff := dst }
    HeaderTable s (after .ccanon { s with len := d10Len }) := by
  have h0 : kraftOk ((sortedSymbols d10Len).map fun x => (getSym d10Len x).toNat) = true := by decide +kernel
  have hn : ∀ bs ∈ [d10, d10.take 14], artCount (withInput bs base) = 2 ∧
      artSym (withInput bs base) 0 = 0x61#8 ∧ artSym (withInput bs base) 1 = 0x62#8 ∧
      ∀ i, i < 2 → getSym d10Len (artSym (withInput bs base) i) = artLen (withInput bs base) i := by decide +kernel
  obtain ⟨n, s0, s1, hl⟩ := hn bs h
  intro s
  have n' : artCount s = 2 := n
  refine ⟨d10Len, fun i hi => hl i (n' ▸ hi), fun x hx => ?_, exec_after _ _, ?_⟩
  · have h1 : x ≠ 0x61#8 := fun e => hx 0 (by omega) (s0.trans e.symm)
    have h2 : x ≠ 0x62#8 := fun e => hx 1 (by omega) (s1.trans e.symm)
    simp only [d10Len, table]
    rw [getSym_setSym_other _ _ h1, getSym_setSym_other _ _ h2, getSym_replicate]
  · exact ccanon_done _ h0

/-- Vector D10: the payload 80 begins with `1`, the code of 62. -/
theorem witness_DecodeRestoresTheSymbols :
    let s := withInput d10 base
    let t0 := after .ccanon { s with len := d10Len }
    s.srcOff.toNat + s.srcLen.toNat ≤ s.ibufBytes.toNat ∧ HeaderOk s ∧ LengthsOk s ∧ HeaderTable s t0 ∧
    [0x62#8].length = artOrigLen s ∧ s.dstOff.toNat + artOrigLen s ≤ s.obufBytes.toNat ∧
    (∀ x ∈ [0x62#8], getSym t0.len x ≠ 0#8) ∧ symbolBits t0.len t0.code [0x62#8] <+: artPayload s :=
  ⟨by decide, by decide +kernel, by decide +kernel, headerTable_d10 0#32 d10 (by decide), by decide +kernel,
    by decide +kernel, by decide +kernel, by decide +kernel⟩

/-- D10 with no room in OBUF, and D10 without its payload byte. -/
theorem witness_DecodeFailuresAfterTheCommit :
    (let s : State := { withInput d10 base with dstOff := 64#32 }
     s.srcOff.toNat + s.srcLen.toNat ≤ s.ibufBytes.toNat ∧ HeaderOk s ∧ LengthsOk s ∧
      HeaderTable s (after .ccanon { s with len := d10Len }) ∧ s.obufBytes.toNat < s.dstOff.toNat + artOrigLen s) ∧
    (let s := withInput (d10.take 14) base
     let t0 := after .ccanon { s with len := d10Len }
     s.srcOff.toNat + s.srcLen.toNat ≤ s.ibufBytes.toNat ∧ HeaderOk s ∧ LengthsOk s ∧ HeaderTable s t0 ∧
      s.dstOff.toNat + artOrigLen s ≤ s.obufBytes.toNat ∧ ([] : List Byte).length < artOrigLen s ∧
      artPayload s = symbolBits t0.len t0.code [] ++ []) :=
  ⟨⟨by decide, by decide +kernel, by decide +kernel, headerTable_d10 64#32 d10 (by decide), by decide +kernel⟩,
    by decide, by decide +kernel, by decide +kernel, headerTable_d10 0#32 _ (by decide), by decide +kernel,
    by decide +kernel, by decide +kernel⟩

/-- The table 61 = `0` with originalLength 1 and the payload 80: the first bit is no code's. -/
theorem witness_DecodeFailuresAfterTheCommit_dead :
    let s := artifact 1#8 [0#8, 0x61#8, 1#8, 0x80#8]
    let rest := [true, false, false, false, false, false, false, false]
    HeaderOk s ∧ LengthsOk s ∧ artOrigLen s = 1 ∧ artPayload s = symbolBits k2.len k2.code [] ++ rest ∧ rest ≠ [] ∧
    (∀ i, i < artCount s → getSym k2.len (artSym s i) = artLen s i) ∧
    (∀ y, getSym k2.len y ≠ 0#8 →
      ¬ codeBits (getSym k2.len y) (getSym k2.code y) <+: rest ∧ ¬ rest <+: codeBits (getSym k2.len y) (getSym k2.code y)) :=
  ⟨by decide +kernel, by decide +kernel, by decide +kernel, by decide +kernel, by decide, by decide +kernel, fun y hy => by
    obtain rfl := (k2_coded y).1 hy
    decide +kernel⟩

theorem witness_FrameOfEncodeAndDecode :
    Instr.decode ∈ [Instr.encode, .decode] ∧ exec .decode (withInput d10 base) = .next (after .decode (withInput d10 base)) :=
  ⟨by decide, exec_after _ _⟩

/-- Vector E5: the 15 bytes of ENCODE of "ab", copied to IBUF. -/
theorem witness_DecodeInvertsEncode :
    let s := ab
    let t := after .encode ab
    let u := withInput e5 base
    exec .encode s = .next t ∧ t.status.done = true ∧ u.srcLen = t.dstLen ∧
    u.srcOff.toNat + u.srcLen.toNat ≤ u.ibufBytes.toNat ∧
    u.ibufRange u.srcOff.toNat u.srcLen.toNat = t.obufRange s.dstOff.toNat t.dstLen.toNat ∧
    u.dstOff.toNat + s.srcLen.toNat ≤ u.obufBytes.toNat := by
  refine ⟨exec_after _ _, test_encode_e5.2.2.2, test_encode_e5.2.1.symm, by decide, ?_, by decide⟩
  rw [test_encode_e5.2.1]
  exact (by decide +kernel : (withInput e5 base).ibufRange 0 15 = e5).trans test_encode_e5.1.symm

/-- A state with data in it, one CMD write away from the next. -/
theorem witness_StepKeepsBuffersAndOutcome :
    let s : State := { ab with script := [cmdWrite 0x60#32] }
    BuffersOk s ∧ OutcomeOk s ∧ step s = exec .encode { ab with script := [] } :=
  ⟨⟨by decide +kernel, by decide +kernel, by decide +kernel, by decide +kernel⟩, ⟨by decide, by decide⟩, rfl⟩

/-- The tree invariant does not read the script. -/
theorem treeOk_withScript {s : State} (h : TreeOk s) (es : List Event) : TreeOk { s with script := es } :=
  ⟨h.used, h.unused, h.leaves_le, h.leaves_first, h.syms_rise, h.leaf_fields, h.internal_fields, h.lone_root,
    h.one_parent, h.queued_no_parent, h.freq_sum, h.queue_freq, h.queue_count, h.queue_le, h.no_root, h.with_root,
    h.root_last, h.parents⟩

theorem witness_StepKeepsTheTree :
    let s : State := { forest with script := [cmdWrite 0x21#32] }
    TreeOk s ∧ ∃ t, step s = .next t := by
  refine ⟨treeOk_withScript treeOk_forest _, ?_⟩
  rw [step_event _ (cmdWrite 0x21#32) [] rfl, perform_cmdWrite, execute_command _ .tmerge _ (by decide)]
  exact ⟨_, exec_after _ _⟩

theorem witness_StepKeepsTheCodeTable :
    let s : State := { k4 with script := [.writeWord .len 0x41 5#32] }
    TableOk s ∧ ∃ t, step s = .next t :=
  ⟨⟨tableOk_k4.fits, tableOk_k4.absent, tableOk_k4.kraft, tableOk_k4.prefix_free, tableOk_k4.nsym, tableOk_k4.order⟩,
    _, rfl⟩

end Sys2Proof.Tests
end

section
/-! PROOFS. Encoding (spec/30_encoding.md): which words written to CMD are commands (R80), and the words of a NODE entry
as the host reads them (R96). -/

namespace Sys2Proof

/-! ## Command words -/

/-- The one way a word becomes a command: zero reserved bits and an opcode that the map lists. -/
theorem decode_eq_command_iff (w : Word) (i : Instr) :
    decode w = .command i ↔ w.extractLsb' 8 24 = 0#24 ∧ instrOfOpcode (w.extractLsb' 0 8) = some i := by
  by_cases hzero : w.extractLsb' 8 24 = 0#24
  · cases hop : instrOfOpcode (w.extractLsb' 0 8) <;> simp [decode, hzero, hop]
  · simp [decode, hzero]

/-- The map lists exactly the opcodes of R81. -/
theorem exists_instrOfOpcode_iff (op : Byte) : (∃ i, instrOfOpcode op = some i) ↔ op ∈ WellFormed.opcodes := by
  have hcolumn : opcodeMap.map OpRow.opcode = WellFormed.opcodes := rfl
  rw [← Option.isSome_iff_exists, instrOfOpcode, Option.isSome_map, List.find?_isSome, ← hcolumn, List.mem_map]
  simp only [beq_iff_eq]

/-- Settles O1: a command is a word that passes both checks of R80, and the second is membership in the opcode map. -/
theorem wordIsLegalIffFieldsAreLegal : Obligations.WordIsLegalIffFieldsAreLegal := by
  intro w
  simp only [decode_eq_command_iff, exists_and_left, exists_instrOfOpcode_iff, WellFormed.opcodes]

namespace Machine

/-! ## The words of a NODE entry -/

/-- The unit at index 4i + k of the NODE space is word k of entry i (R96). -/
theorem hostReadWord_node (s : State) {i k : Nat} (hi : i < 511) (hk : k < 4) :
    hostReadWord s .node (4 * i + k) = nodeWord (entry s.node i) k := by
  have hdiv : (4 * i + k) / 4 = i := by omega
  have hmod : (4 * i + k) % 4 = k := by omega
  simp [hostReadWord, entry, hdiv, hmod, hi]

/-- Word 1, from bit 0 up: freq[39:32], kind, inq, five reserved bits, sym, eight reserved bits. -/
theorem nodeWord_one_fields (n : Node) :
    (nodeWord n 1).extractLsb' 0 8 = n.freq.extractLsb' 32 8 ∧ (nodeWord n 1).extractLsb' 8 2 = n.kind.code ∧
    (nodeWord n 1).getLsbD 10 = n.inq ∧ (nodeWord n 1).extractLsb' 11 5 = 0#5 ∧
    (nodeWord n 1).extractLsb' 16 8 = n.sym ∧ (nodeWord n 1).extractLsb' 24 8 = 0#8 := by
  refine ⟨?freqHigh, ?kind, ?inq, ?gap, ?sym, ?top⟩
  case inq =>
    simp only [nodeWord, BitVec.getLsbD_append, BitVec.getLsbD_ofBool]
    simp
  all_goals
    simp (disch := decide) only [nodeWord, BitVec.extractLsb'_append_eq_of_le, BitVec.extractLsb'_append_eq_of_add_le]
    exact BitVec.extractLsb'_eq_self

/-- Word 2, from bit 0 up: left, seven reserved bits, right, seven reserved bits. -/
theorem nodeWord_two_fields (n : Node) :
    (nodeWord n 2).extractLsb' 0 9 = n.left ∧ (nodeWord n 2).extractLsb' 9 7 = 0#7 ∧
    (nodeWord n 2).extractLsb' 16 9 = n.right ∧ (nodeWord n 2).extractLsb' 25 7 = 0#7 := by
  refine ⟨?left, ?gap, ?right, ?top⟩
  all_goals
    simp (disch := decide) only [nodeWord, BitVec.extractLsb'_append_eq_of_le, BitVec.extractLsb'_append_eq_of_add_le]
    exact BitVec.extractLsb'_eq_self

/-- Settles O15: each of the four reads is a word of the entry, and the layout of words 1 and 2 gives their fields. -/
theorem nodeEntryIsFourWords : Obligations.NodeEntryIsFourWords := by
  intro s i hi
  have hread : ∀ k < 4, hostReadWord s .node (4 * i + k) = nodeWord (entry s.node i) k :=
    fun k => hostReadWord_node s hi
  have hread0 : hostReadWord s .node (4 * i) = nodeWord (entry s.node i) 0 := hread 0 (by decide)
  obtain ⟨hfreq, hkind, hinq, hgap1, hsym, htop1⟩ := nodeWord_one_fields (entry s.node i)
  obtain ⟨hleft, hgap2, hright, htop2⟩ := nodeWord_two_fields (entry s.node i)
  simp only [hread0, hread 1 (by decide), hread 2 (by decide), hread 3 (by decide)]
  refine ⟨rfl, hfreq, ?kind, hinq, hgap1, hsym, htop1, hleft, hgap2, hright, htop2, rfl⟩
  case kind =>
    rw [hkind]
    cases (entry s.node i).kind <;> rfl

end Machine

end Sys2Proof
end

section
/-! PROOFS. Control (spec/40_control.md): what an illegal command word (R112), NOP (R113) and SRST (R114) leave. -/

namespace Sys2Proof

/-! ## Illegal command words -/

/-- The other side of O1: decoding rejects exactly the words that fail a check of R80. -/
theorem exists_decode_eq_illegal_iff (w : Word) :
    (∃ r, decode w = .illegal r) ↔ w.extractLsb' 8 24 ≠ 0#24 ∨ w.extractLsb' 0 8 ∉ WellFormed.opcodes := by
  have hlegal : (∃ i, decode w = .command i) ↔ w.extractLsb' 8 24 = 0#24 ∧ w.extractLsb' 0 8 ∈ WellFormed.opcodes :=
    wordIsLegalIffFieldsAreLegal w
  rw [← not_and_or, ← hlegal]
  cases decode w with
  | command i => simp
  | illegal r => simp

namespace Machine

/-- R112: the failure commit of an illegal word, which is neither an output command nor DECODE, is a write of STATUS. -/
theorem illegalCommand_eq (w : Word) (s : State) :
    illegalCommand w s = { s with status := s.status.failWith (w.extractLsb' 0 8) .illegalCommand } := rfl

/-- Settles O6: the CMD write executes a word that decoding rejects. -/
theorem illegalWordChangesOnlyStatus : Obligations.IllegalWordChangesOnlyStatus := by
  intro s w rest hscript hbad
  obtain ⟨r, hillegal⟩ := (exists_decode_eq_illegal_iff w).2 hbad
  calc step s
      = perform (cmdWrite w) { s with script := rest } := step_event s (cmdWrite w) rest hscript
    _ = .next (illegalCommand w { s with script := rest }) := by
        rw [perform_cmdWrite, execute_illegal w r _ hillegal]
    _ = _ := congrArg Host.Outcome.next (illegalCommand_eq w _)

/-! ## NOP -/

/-- NOP has no procedure: its whole effect is the end of a command (R113). -/
theorem exec_nop (s : State) : exec .nop s = .next { s with status := s.status.succeed 0x00#8 } := rfl

/-- Settles O21: the successful end of a command writes only the outcome. -/
theorem nopChangesOnlyTheOutcome : Obligations.NopChangesOnlyTheOutcome :=
  ⟨by decide, exec_nop⟩

/-! ## SRST -/

/-- R114: SRST ends in the hardware-reset state with its own outcome in STATUS and the host side and OBUF left alone. -/
theorem exec_srst (s : State) :
    exec .srst s = .next { State.reset with
      status := Status.reset.succeed 0x01#8
      srcOff := s.srcOff, srcLen := s.srcLen, dstOff := s.dstOff, symN := s.symN
      ibuf := s.ibuf, obuf := s.obuf, ibufBytes := s.ibufBytes, obufBytes := s.obufBytes
      resets := s.resets, script := s.script, received := s.received } := rfl

/-- R41: every symbol-indexed table reads 0 at every symbol after a hardware reset. -/
theorem getSym_reset (x : Byte) :
    getSym State.reset.hist x = 0#32 ∧ getSym State.reset.len x = 0#8 ∧
    getSym State.reset.code x = 0#255 ∧ getSym State.reset.order x = 0#8 :=
  ⟨getSym_replicate _ x, getSym_replicate _ x, getSym_replicate _ x, getSym_replicate _ x⟩

/-- R41: every NODE entry is Free after a hardware reset. -/
theorem getElem?_node_reset {i : Nat} (hi : i < 511) : State.reset.node[i]? = some Node.free := by
  simp [State.reset, hi]

/-- R26, R114: STATUS after SRST as the host reads it has DONE and the opcode in LASTOP set and nothing else. -/
theorem toWord_succeed_srst : (Status.reset.succeed 0x01#8).toWord = 0x00010001#32 := by decide

/-- Settles O22: the tables are those of the hardware-reset state, and every register and kept item is a field of the
state that SRST answers. -/
theorem srstRestoresResetValues : Obligations.SrstRestoresResetValues := by
  refine ⟨by decide, fun s => ⟨_, exec_srst s, toWord_succeed_srst, rfl, getSym_reset, fun _ => getElem?_node_reset,
    rfl, rfl, rfl, rfl, rfl, rfl, rfl, rfl, rfl, rfl, rfl, rfl, rfl, rfl, rfl, ?hostSide, fun _ => rfl⟩⟩
  case hostSide =>
    exact { srcOff := rfl, srcLen := rfl, dstOff := rfl, symN := rfl, ibuf := fun _ => rfl, ibufBytes := rfl
            obufBytes := rfl, resets := rfl, script := rfl, received := rfl }

end Machine

end Sys2Proof
end

section
/-! PROOFS. The FrequencyAnalyzer (spec/41_histogram.md): what the counting pass leaves in each counter (R120), and the
counter arithmetic without wrap (R122). -/

namespace Sys2Proof.Machine

/-! ## The counting pass -/

/-- R120 in machine arithmetic: each counter rises by the number of occurrences of its symbol, modulo 2^32. -/
theorem getSym_countInto (h : SymTable Word) (bs : List Byte) (x : Byte) :
    getSym (countInto h bs) x = getSym h x + BitVec.ofNat 32 (bs.count x) := by
  induction bs generalizing h with
  | nil => simp [countInto]
  | cons b bs ih =>
    rw [countInto, ih, getSym_setSym]
    split
    · next hx =>
      subst hx
      rw [List.count_cons_self, BitVec.add_assoc, ← BitVec.ofNat_add, Nat.add_comm]
    · next hx => rw [List.count_cons_of_ne (Ne.symm hx)]

/-- The occurrences of all symbols in a byte list add up to its length. -/
theorem sum_count_allSymbols (bs : List Byte) : (allSymbols.map fun x => bs.count x).sum = bs.length :=
  calc (allSymbols.map fun x => bs.count x).sum
      = ∑ x ∈ allSymbols.toFinset, bs.count x := (List.sum_toFinset _ allSymbols_nodup).symm
    _ = ∑ x ∈ allSymbols.toFinset, (bs : Multiset Byte).count x := by simp only [Multiset.coe_count]
    _ = bs.length := Multiset.sum_count_eq_card fun x _ => List.mem_toFinset.2 (mem_allSymbols x)

/-! ## The procedure -/

theorem procHist_hist (off len : Nat) (s : State) :
    (procHist off len s).hist = countInto (Vector.replicate 256 0#32) (s.ibufRange off len) := rfl

theorem procHist_histTotal (off len : Nat) (s : State) : (procHist off len s).histTotal = BitVec.ofNat 32 len := rfl

/-- R122: no counter wraps, for a counter is at most `len` and `len` is a 32-bit value; so each one is the exact number of
occurrences of its symbol. -/
theorem toNat_getSym_procHist (off : Nat) {len : Nat} (hlen : len < 2 ^ 32) (s : State) (x : Byte) :
    (getSym (procHist off len s).hist x).toNat = (s.ibufRange off len).count x := by
  have hcount : (s.ibufRange off len).count x ≤ len := List.count_le_length.trans_eq (s.ibufRange_length off len)
  calc (getSym (procHist off len s).hist x).toNat
      = (0#32 + BitVec.ofNat 32 ((s.ibufRange off len).count x)).toNat := by
        rw [procHist_hist, getSym_countInto, getSym_replicate]
    _ = (s.ibufRange off len).count x := by
        rw [BitVec.zero_add, BitVec.toNat_ofNat, Nat.mod_eq_of_lt (hcount.trans_lt hlen)]

/-! ## The command -/

/-- R121: with its input range in IBUF, HIST runs the procedure and ends without failure. -/
theorem exec_hist_of_fits (s : State) (hfits : s.srcOff.toNat + s.srcLen.toNat ≤ s.ibufBytes.toNat) :
    exec .hist s = .next (complete .hist s (.ok () (procHist s.srcOff.toNat s.srcLen.toNat s))) := by
  have hin : s.inputFits s.srcOff.toNat s.srcLen.toNat = true := decide_eq_true hfits
  calc exec .hist s
      = .next (complete .hist s (cmdHist s)) := rfl
    _ = _ := by rw [cmdHist, if_pos hin]

/-- Settles O24: the counters are the exact occurrence counts of the input, which add up to its length, HIST_TOTAL,
and none of which exceeds it. -/
theorem histCountersSumToHistTotal : Obligations.HistCountersSumToHistTotal := by
  intro s t hfits hexec
  rw [exec_hist_of_fits s hfits, Host.Outcome.next.injEq] at hexec
  subst hexec
  simp only [complete_ok_hist, complete_ok_histTotal, procHist_histTotal, BitVec.ofNat_toNat, BitVec.setWidth_eq,
    BitVec.le_def, toNat_getSym_procHist _ s.srcLen.isLt]
  refine ⟨?sum, fun x => ?bound⟩
  case sum => rw [sum_count_allSymbols, State.ibufRange_length]
  case bound => exact List.count_le_length.trans_eq (s.ibufRange_length _ _)

end Sys2Proof.Machine
end

section
/-! PROOFS. The BitstreamWriter (spec/44_bitstream.md section 1): what a successful PACK leaves (R170, R171), the stream
bits of packed bytes (R63), and the bit count of a range that HIST counted (R172). -/

namespace Sys2Proof.Machine

/-! ## Packed bits -/

@[simp] theorem symbolBits_length (l : SymTable Byte) (c : SymTable Code) (xs : List Byte) :
    (symbolBits l c xs).length = totalBits l xs := by
  simp [symbolBits, totalBits, List.length_flatMap]

@[simp] theorem symbolBits_cons (l : SymTable Byte) (c : SymTable Code) (x : Byte) (xs : List Byte) :
    symbolBits l c (x :: xs) = codeBits (getSym l x) (getSym c x) ++ symbolBits l c xs := rfl

/-- R63, R171: the first 8n bits of the stream, and zeros where the stream is shorter. -/
theorem streamBits_packBytes (bits : List Bool) (n : Nat) :
    streamBits (packBytes bits n) = bits.take (8 * n) ++ List.replicate (8 * n - bits.length) false := by
  refine List.ext_getElem (by simp; omega) fun t ht _ => ?_
  have htn : t < 8 * n := by simpa using ht
  have hbit : (streamBits (packBytes bits n))[t] = bits.getD t false := by
    simp only [streamBits, List.getElem_map, List.getElem_range, streamBit_packBytes bits n t htn]
  rw [hbit, List.getD_eq_getElem?_getD, List.getElem_append]
  by_cases hlt : t < bits.length
  · simp [hlt, htn]
  · simp [hlt]

theorem packBytes_take (bits : List Bool) {m n : Nat} (h : m ≤ n) : (packBytes bits n).take m = packBytes bits m := by
  simp [packBytes, ← List.map_take, List.take_range, Nat.min_eq_left h]

/-- The first bytes of a range of OBUF are the shorter range. -/
theorem State.obufRange_take (s : State) (off : Nat) {m n : Nat} (h : m ≤ n) :
    (s.obufRange off n).take m = s.obufRange off m := by
  simp [State.obufRange, ← List.map_take, List.take_range, Nat.min_eq_left h]

/-! ## The command -/

/-- The bytes of IBUF that a command's operands name (R66). -/
abbrev State.source (s : State) : List Byte := s.ibufRange s.srcOff.toNat s.srcLen.toNat

/-- What PACK makes of a state when both of its checks pass, before the outcome goes to STATUS (R170, R171). -/
def packed (s : State) : State :=
  { s.writeObuf s.dstOff.toNat (packBytes (symbolBits s.len s.code s.source) (bytesFor (totalBits s.len s.source))) with
    totalBitsLo := BitVec.ofNat 32 (totalBits s.len s.source)
    totalBitsHi := BitVec.ofNat 8 (totalBits s.len s.source / 2 ^ 32)
    dstLen := BitVec.ofNat 32 (bytesFor (totalBits s.len s.source)) }

/-- R170: what PACK tests; with all of it true PACK succeeds. -/
structure PackFits (s : State) : Prop where
  tblv : s.status.tblv = true
  input : s.srcOff.toNat + s.srcLen.toNat ≤ s.ibufBytes.toNat
  coded : ∀ x ∈ s.source, getSym s.len x ≠ 0#8
  output : s.dstOff.toNat + bytesFor (totalBits s.len s.source) ≤ s.obufBytes.toNat

/-- The two ways the body of PACK ends (R170). -/
theorem cmdPack_cases (s : State) :
    (∃ k, cmdPack s = .fail k s) ∨ (PackFits s ∧ cmdPack s = .ok () (packed s)) := by
  by_cases htblv : s.status.tblv = true
  · by_cases hinput : s.srcOff.toNat + s.srcLen.toNat ≤ s.ibufBytes.toNat
    · simp only [cmdPack, htblv, State.inputFits, hinput, decide_true, if_true]
      obtain ⟨-, h⟩ | ⟨hcoded, ⟨-, h⟩ | ⟨houtput, h⟩⟩ := procPack_cases s.srcOff.toNat s.srcLen.toNat s.dstOff.toNat s
      · exact .inl ⟨_, by rw [h, Proc.andThen_fail]⟩
      · exact .inl ⟨_, by rw [h, Proc.andThen_fail]⟩
      · exact .inr ⟨⟨htblv, hinput, hcoded, houtput⟩, by rw [h, Proc.andThen_ok]; rfl⟩
    · exact .inl ⟨.bufferOverflow, by simp [cmdPack, htblv, State.inputFits, hinput]⟩
  · exact .inl ⟨.badState, by simp [cmdPack, htblv]⟩

/-- A PACK that reports DONE passed its checks and left the packed state. -/
theorem exec_pack_done {s t : State} (hexec : exec .pack s = .next t) (hdone : t.status.done = true) :
    PackFits s ∧ t = complete .pack s (.ok () (packed s)) := by
  have ht : complete .pack s (cmdPack s) = t := Host.Outcome.next.inj hexec
  subst ht
  obtain ⟨k, h⟩ | ⟨hfits, h⟩ := cmdPack_cases s
  · simp [h] at hdone
  · exact ⟨hfits, by rw [h]⟩

/-- The byte count fits DST_LEN, for OBUF holds that many bytes. -/
theorem PackFits.toNat_dstLen {s : State} (h : PackFits s) :
    (packed s).dstLen.toNat = bytesFor (totalBits s.len s.source) := by
  have hroom : bytesFor (totalBits s.len s.source) < 2 ^ 32 :=
    (Nat.le_of_add_left_le h.output).trans_lt s.obufBytes.isLt
  exact (BitVec.toNat_ofNat ..).trans (Nat.mod_eq_of_lt hroom)

/-- Reading back the first bytes of PACK's output. -/
theorem obufRange_packed (s : State) {m : Nat} (h : m ≤ bytesFor (totalBits s.len s.source)) :
    (complete .pack s (.ok () (packed s))).obufRange s.dstOff.toNat m =
      packBytes (symbolBits s.len s.code s.source) m := by
  have hall := s.obufRange_writeObuf s.dstOff.toNat
    (packBytes (symbolBits s.len s.code s.source) (bytesFor (totalBits s.len s.source)))
  rw [packBytes_length] at hall
  calc (complete .pack s (.ok () (packed s))).obufRange s.dstOff.toNat m
      = ((complete .pack s (.ok () (packed s))).obufRange s.dstOff.toNat (bytesFor (totalBits s.len s.source))).take m :=
        (State.obufRange_take _ _ h).symm
    _ = (packBytes (symbolBits s.len s.code s.source) (bytesFor (totalBits s.len s.source))).take m :=
        congrArg (List.take m) hall
    _ = packBytes (symbolBits s.len s.code s.source) m := packBytes_take _ h

/-! ## The bit count -/

/-- R171: "T <= 255 * (2^32 - 1) < 2^40, so it fits TOTAL_BITS". -/
theorem totalBits_lt (s : State) : totalBits s.len s.source < 2 ^ 40 := by
  have hbytes : ∀ v ∈ s.source.map fun x => (getSym s.len x).toNat, v ≤ 255 := by
    simp only [List.forall_mem_map]
    exact fun x _ => Nat.le_of_lt_succ (getSym s.len x).isLt
  have hsum := List.sum_le_card_nsmul _ _ hbytes
  rw [List.length_map, s.ibufRange_length, smul_eq_mul] at hsum
  have hlen := s.srcLen.isLt
  unfold totalBits
  omega

/-- The two halves of TOTAL_BITS together are T (R171). -/
theorem packed_totalBits (s : State) :
    (packed s).totalBitsLo.toNat + 2 ^ 32 * (packed s).totalBitsHi.toNat = totalBits s.len s.source := by
  have hlt := totalBits_lt s
  have hlo : (packed s).totalBitsLo.toNat = totalBits s.len s.source % 2 ^ 32 := BitVec.toNat_ofNat ..
  have hhi : (packed s).totalBitsHi.toNat = totalBits s.len s.source / 2 ^ 32 :=
    (BitVec.toNat_ofNat ..).trans (Nat.mod_eq_of_lt (by omega))
  rw [hlo, hhi, Nat.mod_add_div]

/-- The code lengths of the bytes of a list, grouped by symbol. -/
theorem totalBits_eq_sum_count (l : SymTable Byte) (xs : List Byte) :
    totalBits l xs = (allSymbols.map fun x => xs.count x * (getSym l x).toNat).sum :=
  calc totalBits l xs
      = ∑ x ∈ xs.toFinset, xs.count x * (getSym l x).toNat := Finset.sum_list_map_count xs _
    _ = ∑ x ∈ allSymbols.toFinset, xs.count x * (getSym l x).toNat := by
        refine Finset.sum_subset (fun x _ => List.mem_toFinset.2 (mem_allSymbols x)) fun x _ hx => ?_
        rw [List.count_eq_zero.2 (List.mem_toFinset.not.1 hx), Nat.zero_mul]
    _ = (allSymbols.map fun x => xs.count x * (getSym l x).toNat).sum := List.sum_toFinset _ allSymbols_nodup

/-- A HIST that reports DONE passed its range check (R121). -/
theorem fits_of_exec_hist_done {s t : State} (hexec : exec .hist s = .next t) (hdone : t.status.done = true) :
    s.srcOff.toNat + s.srcLen.toNat ≤ s.ibufBytes.toNat := by
  have ht : complete .hist s (cmdHist s) = t := Host.Outcome.next.inj hexec
  subst ht
  by_contra hout
  simp [cmdHist, State.inputFits, hout] at hdone

/-- Settles O44: HIST's counters are the occurrence counts of the bytes that PACK reads, and grouping those bytes by symbol
turns PACK's sum of code lengths into the weighted one. -/
theorem packedBitsAreTheWeightedLengths : Obligations.PackedBitsAreTheWeightedLengths := by
  intro s t u v hhist htdone hpack hvdone hbytes
  rw [exec_hist_of_fits s (fits_of_exec_hist_done hhist htdone), Host.Outcome.next.injEq] at hhist
  subst hhist
  obtain ⟨-, rfl⟩ := exec_pack_done hpack hvdone
  calc (packed u).totalBitsLo.toNat + 2 ^ 32 * (packed u).totalBitsHi.toNat
      = totalBits u.len u.source := packed_totalBits u
    _ = (allSymbols.map fun x => s.source.count x * (getSym u.len x).toNat).sum := by
        rw [totalBits_eq_sum_count, State.source, hbytes]
    _ = _ := by simp only [complete_ok_hist, toNat_getSym_procHist _ s.srcLen.isLt]

end Sys2Proof.Machine
end

section
/-! PROOFS. The BitstreamReader (spec/44_bitstream.md sections 2 and 3): how a walk of the code table follows one code
(R173, R174), what a sequence of codes reads as, and the round trip of the pair (R176, R177). -/

namespace Sys2Proof.Machine

/-! ## The code table as a tree -/

/-- What the reader needs of a code table: codes that fit their lengths (R35), none the beginning of another (R40(g)). -/
structure CodeTree (l : SymTable Byte) (c : SymTable Code) : Prop where
  fits : ∀ x, getSym l x ≠ 0#8 → (getSym c x).toNat < 2 ^ (getSym l x).toNat
  prefix_free : ∀ x y, x ≠ y → getSym l x ≠ 0#8 → getSym l y ≠ 0#8 →
    ¬ CodePrefix (getSym l x).toNat (getSym c x).toNat (getSym l y).toNat (getSym c y).toNat

theorem TableOk.codeTree {s : State} (h : TableOk s) (htblv : s.status.tblv = true) : CodeTree s.len s.code :=
  ⟨h.fits htblv, h.prefix_free htblv⟩

/-- The value of the first k bits of a symbol's code: what the reader has accumulated k bits into it (R174). -/
def codeHead (l : SymTable Byte) (c : SymTable Code) (x : Byte) (k : Nat) : Nat :=
  (getSym c x).toNat >>> ((getSym l x).toNat - k)

section
variable {l : SymTable Byte} {c : SymTable Code} {x : Byte} {k : Nat}

theorem toNat_ne_zero_of_coded (hx : getSym l x ≠ 0#8) : (getSym l x).toNat ≠ 0 :=
  fun h0 => hx (BitVec.eq_of_toNat_eq h0)

theorem codeHead_zero (h : CodeTree l c) (hx : getSym l x ≠ 0#8) : codeHead l c x 0 = 0 := by
  rw [codeHead, Nat.sub_zero, Nat.shiftRight_eq_div_pow, Nat.div_eq_of_lt (h.fits x hx)]

theorem codeHead_length : codeHead l c x (getSym l x).toNat = (getSym c x).toNat := by
  rw [codeHead, Nat.sub_self, Nat.shiftRight_zero]

/-- Reading bit k of a code: `acc <- 2 * acc + b` (R174). -/
theorem codeHead_succ (hk : k < (getSym l x).toNat) :
    codeHead l c x (k + 1) = 2 * codeHead l c x k + ((getSym c x).getLsbD ((getSym l x).toNat - 1 - k)).toNat := by
  have hhigh : (getSym l x).toNat - k = (getSym l x).toNat - (k + 1) + 1 := by omega
  have hbit : (getSym l x).toNat - 1 - k = (getSym l x).toNat - (k + 1) := by omega
  rw [codeHead, codeHead, hhigh, hbit, BitVec.getLsbD, Nat.toNat_testBit, Nat.shiftRight_succ,
    Nat.shiftRight_eq_div_pow, Nat.div_add_mod]

/-- The test for a match in `Lookup`, for a bit string that begins a code, finds no symbol but the code's own: any other
would have a beginning of it as its code. -/
theorem eq_of_code_eq_codeHead (h : CodeTree l c) (hx : getSym l x ≠ 0#8) (hpos : 0 < k) (hk : k ≤ (getSym l x).toNat)
    {y : Byte} (hlen : (getSym l y).toNat = k) (hcode : (getSym c y).toNat = codeHead l c x k) : y = x := by
  by_contra hne
  have hy : getSym l y ≠ 0#8 := fun h0 => by simp [h0] at hlen; omega
  exact h.prefix_free y x hne hy hx ⟨by omega, by rw [hcode, hlen, codeHead]⟩

/-- R173: the whole code of a symbol is that symbol's leaf. -/
theorem lookup_code (h : CodeTree l c) (hx : getSym l x ≠ 0#8) :
    lookup l c (getSym c x).toNat (getSym l x).toNat = .hit x := by
  have hpos := Nat.pos_of_ne_zero (toNat_ne_zero_of_coded hx)
  have hfind : allSymbols.find? (fun y => (getSym l y).toNat == (getSym l x).toNat &&
      (getSym c y).toNat == (getSym c x).toNat) = some x := by
    cases hf : allSymbols.find? (fun y => (getSym l y).toNat == (getSym l x).toNat &&
        (getSym c y).toNat == (getSym c x).toNat) with
    | none => simpa using List.find?_eq_none.1 hf x (mem_allSymbols x)
    | some y =>
      have hmatch := List.find?_some hf
      simp only [Bool.and_eq_true, beq_iff_eq] at hmatch
      rw [eq_of_code_eq_codeHead h hx hpos le_rfl hmatch.1 (hmatch.2.trans codeHead_length.symm)]
  simp only [lookup, hfind]

/-- R173: a proper non-empty beginning of a code is an internal node. -/
theorem lookup_codeHead (h : CodeTree l c) (hx : getSym l x ≠ 0#8) (hpos : 0 < k) (hk : k < (getSym l x).toNat) :
    lookup l c (codeHead l c x k) k = .inner := by
  have hfind : allSymbols.find? (fun y => (getSym l y).toNat == k && (getSym c y).toNat == codeHead l c x k) = none := by
    refine List.find?_eq_none.2 fun y _ hmatch => ?_
    simp only [Bool.and_eq_true, beq_iff_eq] at hmatch
    have hyx := eq_of_code_eq_codeHead h hx hpos hk.le hmatch.1 hmatch.2
    rw [hyx] at hmatch
    omega
  have hany : (allSymbols.any fun y => decide (k < (getSym l y).toNat) &&
      (getSym c y).toNat >>> ((getSym l y).toNat - k) == codeHead l c x k) = true :=
    List.any_eq_true.2 ⟨x, mem_allSymbols x, by simp [hk, codeHead]⟩
  simp only [lookup, hfind, hany, if_true]

/-! ## Reading one symbol -/

theorem getElem_codeBits (hk : k < (codeBits (getSym l x) (getSym c x)).length) :
    (codeBits (getSym l x) (getSym c x))[k] = (getSym c x).getLsbD ((getSym l x).toNat - 1 - k) := by
  simp [codeBits]

/-- One round of the inner loop, k bits into a code (R174). -/
theorem readSymbol_cons_code (h : CodeTree l c) (hx : getSym l x ≠ 0#8)
    (hk : k < (codeBits (getSym l x) (getSym c x)).length) (bits : List Bool) :
    readSymbol l c ((codeBits (getSym l x) (getSym c x))[k] :: bits) (codeHead l c x k) k =
      if k + 1 = (getSym l x).toNat then .ok (x, bits) else readSymbol l c bits (codeHead l c x (k + 1)) (k + 1) := by
  have hlt : k < (getSym l x).toNat := by simpa using hk
  rw [readSymbol, getElem_codeBits, ← codeHead_succ hlt]
  by_cases hlast : k + 1 = (getSym l x).toNat
  · simp only [hlast, codeHead_length, lookup_code h hx, if_true]
  · simp only [lookup_codeHead h hx (Nat.succ_pos k) (by omega), hlast, if_false]

/-- From k bits into a code, the rest of the code completes its symbol, and no further bit is read. -/
theorem readSymbol_drop_codeBits {k : Nat} (h : CodeTree l c) (hx : getSym l x ≠ 0#8)
    (hk : k < (codeBits (getSym l x) (getSym c x)).length) (rest : List Bool) :
    readSymbol l c ((codeBits (getSym l x) (getSym c x)).drop k ++ rest) (codeHead l c x k) k = .ok (x, rest) := by
  have hlt : k < (getSym l x).toNat := by rwa [codeBits_length] at hk
  rw [List.drop_eq_getElem_cons hk, List.cons_append, readSymbol_cons_code h hx hk]
  split
  · next hlast => simp [hlast]
  · next hmore => exact readSymbol_drop_codeBits h hx (by rw [codeBits_length]; omega) rest
termination_by (getSym l x).toNat - k

/-- R174: a symbol's code reads as that symbol. -/
theorem readSymbol_codeBits (h : CodeTree l c) (hx : getSym l x ≠ 0#8) (rest : List Bool) :
    readSymbol l c (codeBits (getSym l x) (getSym c x) ++ rest) 0 0 = .ok (x, rest) := by
  have hpos := Nat.pos_of_ne_zero (toNat_ne_zero_of_coded hx)
  simpa [codeHead_zero h hx] using readSymbol_drop_codeBits (k := 0) h hx (by simpa using hpos) rest

/-- From k bits into a code, bits that stop before its end run out. -/
theorem readSymbol_prefix_drop_codeBits (h : CodeTree l c) (hx : getSym l x ≠ 0#8) {p : List Bool}
    (hp : p <+: (codeBits (getSym l x) (getSym c x)).drop k) (hlen : k + p.length < (getSym l x).toNat) :
    readSymbol l c p (codeHead l c x k) k = .error .truncatedPayload := by
  induction p generalizing k with
  | nil => rfl
  | cons b p ih =>
    rw [List.length_cons] at hlen
    have hk : k < (codeBits (getSym l x) (getSym c x)).length := by rw [codeBits_length]; omega
    rw [List.drop_eq_getElem_cons hk, List.cons_prefix_cons] at hp
    obtain ⟨rfl, hp⟩ := hp
    rw [readSymbol_cons_code h hx hk, if_neg (by omega)]
    exact ih hp (by omega)

/-- R174, R175(d): a proper beginning of a code is a truncated symbol. -/
theorem readSymbol_prefix_codeBits (h : CodeTree l c) (hx : getSym l x ≠ 0#8) {p : List Bool}
    (hp : p <+: codeBits (getSym l x) (getSym c x)) (hlen : p.length < (getSym l x).toNat) :
    readSymbol l c p 0 0 = .error .truncatedPayload := by
  simpa [codeHead_zero h hx] using readSymbol_prefix_drop_codeBits (k := 0) h hx (by simpa using hp) (by simpa using hlen)

/-! ## Reading a sequence of symbols -/

/-- R174: the codes of a sequence of symbols read as that sequence, whatever bits follow. -/
theorem readSymbols_symbolBits (h : CodeTree l c) {xs : List Byte} (hxs : ∀ x ∈ xs, getSym l x ≠ 0#8)
    (rest : List Bool) : readSymbols l c xs.length (symbolBits l c xs ++ rest) = .ok xs := by
  induction xs with
  | nil => rfl
  | cons x xs ih =>
    rw [List.forall_mem_cons] at hxs
    rw [symbolBits_cons, List.append_assoc, List.length_cons, readSymbols, readSymbol_codeBits h hxs.1]
    simp only [ih hxs.2]

/-- R174: the reader of a sequence runs out of bits when even one of its bits is missing. -/
theorem readSymbols_prefix_symbolBits (h : CodeTree l c) {xs : List Byte} (hxs : ∀ x ∈ xs, getSym l x ≠ 0#8)
    {p : List Bool} (hp : p <+: symbolBits l c xs) (hlen : p.length < totalBits l xs) :
    readSymbols l c xs.length p = .error .truncatedPayload := by
  induction xs generalizing p with
  | nil => exact absurd hlen (Nat.not_lt_zero _)
  | cons x xs ih =>
    rw [List.forall_mem_cons] at hxs
    rw [List.length_cons, readSymbols]
    rw [symbolBits_cons] at hp
    by_cases hfirst : p.length < (getSym l x).toNat
    · have hcode : p <+: codeBits (getSym l x) (getSym c x) :=
        List.prefix_of_prefix_length_le hp (List.prefix_append _ _) (by rw [codeBits_length]; omega)
      rw [readSymbol_prefix_codeBits h hxs.1 hcode hfirst]
    · obtain ⟨q, rfl⟩ : codeBits (getSym l x) (getSym c x) <+: p :=
        List.prefix_of_prefix_length_le (List.prefix_append _ _) hp (by rw [codeBits_length]; omega)
      have hq : q.length < totalBits l xs := by
        simp only [List.length_append, codeBits_length, totalBits, List.map_cons, List.sum_cons] at hlen
        exact Nat.lt_of_add_lt_add_left hlen
      rw [readSymbol_codeBits h hxs.1]
      simp only [ih hxs.2 ((List.prefix_append_right_inj _).1 hp) hq]

end

/-! ## The command -/

/-- R175: what UNPACK tests before it reads a bit. -/
structure UnpackFits (s : State) : Prop where
  tblv : s.status.tblv = true
  input : s.srcOff.toNat + s.srcLen.toNat ≤ s.ibufBytes.toNat
  output : s.dstOff.toNat + s.symN.toNat ≤ s.obufBytes.toNat

/-- The body of UNPACK once its tests have passed (R175). -/
theorem UnpackFits.cmdUnpack_eq {s : State} (h : UnpackFits s) :
    cmdUnpack s = (procUnpack s.srcOff.toNat s.srcLen.toNat s.symN.toNat s.dstOff.toNat s).andThen fun n t =>
      .ok () { t with dstLen := BitVec.ofNat 32 n } := by
  simp only [cmdUnpack, h.tblv, State.inputFits, State.outputFits, h.input, h.output, decide_true, if_true]

/-- UNPACK of a payload that holds SYM_N symbols writes them and their number (R174, R175). -/
theorem UnpackFits.exec_ok {s : State} (h : UnpackFits s) {out : List Byte}
    (hread : readSymbols s.len s.code s.symN.toNat (streamBits s.source) = .ok out) :
    exec .unpack s = .next (complete .unpack s (.ok () { s.writeObuf s.dstOff.toNat out with dstLen := s.symN })) :=
  calc exec .unpack s
      = .next (complete .unpack s (cmdUnpack s)) := rfl
    _ = _ := by
        simp only [h.cmdUnpack_eq, procUnpack, hread, Proc.andThen_ok, BitVec.ofNat_toNat, BitVec.setWidth_eq]

/-- UNPACK of a payload that does not read fails as the reader does (R174, R175). -/
theorem UnpackFits.exec_error {s : State} (h : UnpackFits s) {k : FailKind}
    (hread : readSymbols s.len s.code s.symN.toNat (streamBits s.source) = .error k) :
    exec .unpack s = .next (complete .unpack s (.fail k s)) :=
  calc exec .unpack s
      = .next (complete .unpack s (cmdUnpack s)) := rfl
    _ = _ := by simp only [h.cmdUnpack_eq, procUnpack, hread, Proc.andThen_fail]

/-! ## The round trip -/

/-- Settles O45: PACK's output holds the codes of its input and then padding; no code begins another, so the reader gets
the input back and stops before the padding. -/
theorem unpackInvertsPack : Obligations.UnpackInvertsPack := by
  intro s t u htable hpack hdone hlen hcode htblv hsymN _ hinput houtput hpayload
  obtain ⟨hfits, rfl⟩ := exec_pack_done hpack hdone
  have hbits : streamBits u.source = symbolBits s.len s.code s.source ++
      List.replicate (8 * bytesFor (totalBits s.len s.source) - totalBits s.len s.source) false := by
    have hall : totalBits s.len s.source ≤ 8 * bytesFor (totalBits s.len s.source) := by unfold bytesFor; omega
    rw [State.source, hpayload, complete_ok_dstLen, hfits.toNat_dstLen, obufRange_packed s le_rfl,
      streamBits_packBytes, symbolBits_length, List.take_of_length_le (by rwa [symbolBits_length])]
  have hread : readSymbols u.len u.code u.symN.toNat (streamBits u.source) = .ok s.source := by
    rw [hlen, hcode, hsymN, hbits, ← s.ibufRange_length s.srcOff.toNat s.srcLen.toNat]
    exact readSymbols_symbolBits (htable.codeTree hfits.tblv) hfits.coded _
  refine ⟨_, UnpackFits.exec_ok ⟨htblv, hinput, houtput⟩ hread, rfl, hsymN, ?output⟩
  case output =>
    have hback := u.obufRange_writeObuf u.dstOff.toNat s.source
    rw [s.ibufRange_length, ← hsymN] at hback
    exact hback

/-- Settles O46: what is left of PACK's output is a proper beginning of the codes of its input. -/
theorem unpackReportsAMissingLastByte : Obligations.UnpackReportsAMissingLastByte := by
  intro s t u htable hpack hdone _ hlen hcode htblv hsymN hsrcLen hinput houtput hpayload
  obtain ⟨hfits, rfl⟩ := exec_pack_done hpack hdone
  rw [complete_ok_dstLen, hfits.toNat_dstLen] at hsrcLen
  have hshort : 8 * u.srcLen.toNat < totalBits s.len s.source := by unfold bytesFor at hsrcLen; omega
  have hbits : streamBits u.source = (symbolBits s.len s.code s.source).take (8 * u.srcLen.toNat) := by
    rw [State.source, hpayload, obufRange_packed s (by omega), streamBits_packBytes, symbolBits_length,
      Nat.sub_eq_zero_of_le hshort.le, List.replicate_zero, List.append_nil]
  have hread : readSymbols u.len u.code u.symN.toNat (streamBits u.source) = .error .truncatedPayload := by
    rw [hlen, hcode, hsymN, hbits, ← s.ibufRange_length s.srcOff.toNat s.srcLen.toNat]
    refine readSymbols_prefix_symbolBits (htable.codeTree hfits.tblv) hfits.coded (List.take_prefix _ _) ?_
    exact (List.length_take_le _ _).trans_lt hshort
  exact ⟨_, UnpackFits.exec_error ⟨htblv, hinput, houtput⟩ hread, rfl, rfl⟩

end Sys2Proof.Machine
end

section
/-! PROOFS. The Encoder (spec/45_encoder.md): the tree, the code table and so the artifact are the same in any two states whose
input ranges hold the same bytes (R195), and what a successful ENCODE leaves in OBUF and DST_LEN (R190, R191). -/

namespace Sys2Proof.Machine

/-! ## The TreeBuilder reads HIST and NODE alone -/

section
variable {s s' : State}

theorem SameTree.extractMin_fst (h : SameTree s s') : (extractMin s').1 = (extractMin s).1 := by
  simp only [extractMin, h.node]

theorem SameTree.extractMin_snd (h : SameTree s s') : SameTree (extractMin s).2 (extractMin s').2 where
  node := by simp only [extractMin, h.node]
  nodeCount := h.nodeCount
  pqCount := congrArg (· - 1#9) h.pqCount
  root := h.root

theorem SameTree.merge (h : SameTree s s') : SameTree (procMerge s) (procMerge s') where
  node := by
    have h1 := h.extractMin_snd
    have h2 := h1.extractMin_snd
    simp only [procMerge, h.extractMin_fst, h1.extractMin_fst, h2.node, h2.nodeCount]
  nodeCount := congrArg (· + 1#9) h.nodeCount
  pqCount := by simp only [procMerge_pqCount, h.pqCount]
  root := h.root

theorem SameTree.mergeLoop (h : SameTree s s') (n : Nat) : SameTree (mergeLoop n s) (mergeLoop n s') := by
  induction n generalizing s s' with
  | zero => exact h
  | succ n ih =>
    simp only [Machine.mergeLoop, h.pqCount]
    split
    · exact ih h.merge
    · exact h

theorem SameTree.fin (h : SameTree s s') : SameTree (procFin s) (procFin s') := by
  have h1 := h.extractMin_snd
  simp only [procFin, h.pqCount, h.extractMin_fst, h1.node, h1.nodeCount]
  split
  · exact h
  · split <;> exact ⟨rfl, rfl, h1.pqCount, rfl⟩

theorem sameTree_procSeed (h : s'.hist = s.hist) : SameTree (procSeed s) (procSeed s') := by
  simp only [procSeed, h]
  exact ⟨rfl, rfl, rfl, rfl⟩

/-- R138: the tree is a function of HIST. -/
theorem sameTree_procBuild (h : s'.hist = s.hist) : SameTree (procBuild s) (procBuild s') := by
  have hseed := sameTree_procSeed h
  simp only [procBuild, hseed.pqCount]
  exact (hseed.mergeLoop _).fin

end

/-! ## ENCODE's tables -/

theorem sortedSymbols_length_le (l : SymTable Byte) : (sortedSymbols l).length ≤ 256 := by
  rw [sortedSymbols, List.length_insertionSort]
  exact (List.length_filter_le ..).trans_eq allSymbols_length

section
variable {off len : Nat} {s t : State}

/-- R190: the state ENCODE's table procedures leave when the Kraft test passes. -/
theorem eq_of_encodeTables_ok (h : encodeTables off len s = .ok () t) :
    let d := procDepth (procBuild (procHist off len s))
    t = { d with
      code := assignCodes d.len (sortedSymbols d.len) (Vector.replicate 256 0#255)
      order := fillFrom (Vector.replicate 256 0#8) 0 (sortedSymbols d.len)
      codeNsym := BitVec.ofNat 9 (sortedSymbols d.len).length
      status := { d.status with tblv := true } } := by
  obtain ⟨-, hc⟩ | ⟨-, hc⟩ := procCanon_cases (procDepth (procBuild (procHist off len s)))
  · rw [encodeTables, hc, Proc.ok.injEq] at h
    exact h.2.symm
  · rw [encodeTables, hc] at h
    cases h

theorem encodeTables_hist (h : encodeTables off len s = .ok () t) : t.hist = (procHist off len s).hist := by
  rw [eq_of_encodeTables_ok h]
  simp

theorem encodeTables_ibufRange (h : encodeTables off len s = .ok () t) (a n : Nat) :
    t.ibufRange a n = s.ibufRange a n := by
  rw [eq_of_encodeTables_ok h]
  simp [State.ibufRange, State.ibufByte]

theorem encodeTables_len (h : encodeTables off len s = .ok () t) :
    t.len = depthTable (procBuild (procHist off len s)).node (procBuild (procHist off len s)).root := by
  rw [eq_of_encodeTables_ok h]
  simp only [procDepth_len]

/-- R154: CODE, ORDER and CODE_NSYM are what `Canon` makes of LEN. -/
theorem encodeTables_codes (h : encodeTables off len s = .ok () t) :
    t.code = assignCodes t.len (sortedSymbols t.len) (Vector.replicate 256 0#255) ∧
      t.order = fillFrom (Vector.replicate 256 0#8) 0 (sortedSymbols t.len) ∧
      t.codeNsym = BitVec.ofNat 9 (sortedSymbols t.len).length := by
  rw [eq_of_encodeTables_ok h]
  simp only [and_self]

theorem encodeTables_codeNsym_le (h : encodeTables off len s = .ok () t) : t.codeNsym.toNat ≤ 256 := by
  obtain ⟨-, -, hnsym⟩ := encodeTables_codes h
  rw [hnsym, BitVec.toNat_ofNat]
  exact (Nat.mod_le ..).trans (sortedSymbols_length_le _)

/-- R172, R190: the bits that check 2 computes from HIST are the payload's bits. -/
theorem weightedBits_encodeTables (h : encodeTables off len s = .ok () t) (hlen : len < 2 ^ 32) :
    weightedBits t.hist t.len = totalBits t.len (s.ibufRange off len) := by
  simp only [weightedBits, totalBits_eq_sum_count, encodeTables_hist h, toNat_getSym_procHist off hlen]

/-- R195: the code table is a function of the input bytes. -/
theorem encodeTables_congr {off' len' : Nat} {s' t' : State} (hbytes : s.ibufRange off len = s'.ibufRange off' len')
    (h : encodeTables off len s = .ok () t) (h' : encodeTables off' len' s' = .ok () t') :
    t'.len = t.len ∧ SameCodes t t' := by
  have htree : SameTree (procBuild (procHist off len s)) (procBuild (procHist off' len' s')) :=
    sameTree_procBuild (by rw [procHist_hist, procHist_hist, hbytes])
  have hlen : t'.len = t.len := by rw [encodeTables_len h, encodeTables_len h', htree.node, htree.root]
  obtain ⟨hcode, horder, hnsym⟩ := encodeTables_codes h
  obtain ⟨hcode', horder', hnsym'⟩ := encodeTables_codes h'
  exact ⟨hlen, by rw [hcode, hcode', hlen], by rw [horder, horder', hlen], by rw [hnsym, hnsym', hlen]⟩

end

/-! ## The artifact -/

/-- The artifact of the bytes xs under the code table of t (R90 to R95): ENCODE's header, then its payload. -/
def artifactBytes (xs : List Byte) (t : State) : List Byte :=
  headerBytes xs.length t.codeNsym.toNat t ++
    packBytes (symbolBits t.len t.code xs) (bytesFor (totalBits t.len xs))

theorem headerBytes_length (len : Nat) {n : Nat} (hn : n ≤ 256) (s : State) :
    (headerBytes len n s).length = headerLen n := by
  have hsyms : (s.order.toList.take n).length = n := by rw [List.length_take, Vector.length_toList, Nat.min_eq_left hn]
  simp only [headerBytes, headerLen, Config.magic, List.length_append, List.length_map, List.length_range,
    List.length_flatMap, List.length_cons, List.length_nil, List.map_const', List.sum_replicate, hsyms, smul_eq_mul]
  omega

theorem artifactBytes_congr {t t' : State} (xs : List Byte) (hlen : t'.len = t.len) (hcodes : SameCodes t t') :
    artifactBytes xs t' = artifactBytes xs t := by
  simp only [artifactBytes, headerBytes, hlen, hcodes.code, hcodes.order, hcodes.codeNsym]

/-- R190: check 2 tests for exactly the artifact's bytes. -/
theorem artifactSize_encodeTables {off len : Nat} {s t : State} (h : encodeTables off len s = .ok () t)
    (hlen : len < 2 ^ 32) : artifactSize t = (artifactBytes (s.ibufRange off len) t).length := by
  rw [artifactSize, artifactBytes, List.length_append, headerBytes_length _ (encodeTables_codeNsym_le h),
    packBytes_length, weightedBits_encodeTables h hlen]

theorem Memory.writeAll_append (m : Memory) (a : Nat) (xs ys : List Byte) :
    Memory.writeAll m a (xs ++ ys) = Memory.writeAll (Memory.writeAll m a xs) (a + xs.length) ys := by
  induction xs generalizing m a with
  | nil => rfl
  | cons x xs ih =>
    simp only [List.cons_append, Memory.writeAll, ih, List.length_cons, Nat.add_assoc, Nat.add_comm 1]

/-- Header and payload, written one after the other, are one write of the artifact. -/
theorem State.writeObuf_append (s : State) (dst : Nat) (xs ys : List Byte) :
    s.writeObuf dst (xs ++ ys) = (s.writeObuf dst xs).writeObuf (dst + xs.length) ys := by
  simp only [State.writeObuf, Memory.writeAll_append]

/-! ## The command -/

/-- A sequence that ends without failure ran both its parts (R115). -/
theorem Proc.andThen_eq_ok {α β : Type} {p : Proc α} {f : α → State → Proc β} {b : β} {u : State}
    (h : p.andThen f = .ok b u) : ∃ a t, p = .ok a t ∧ f a t = .ok b u := by
  cases p with
  | ok a t => exact ⟨a, t, rfl, h⟩
  | fail k t => cases h

/-- What ENCODE makes of the state t its table procedures left, before the outcome goes to STATUS (R190, R191). -/
def encoded (dst : Nat) (xs : List Byte) (t : State) : State :=
  { t.writeObuf dst (artifactBytes xs t) with
    totalBitsLo := BitVec.ofNat 32 (totalBits t.len xs)
    totalBitsHi := BitVec.ofNat 8 (totalBits t.len xs / 2 ^ 32)
    origLen := BitVec.ofNat 32 xs.length
    dstLen := BitVec.ofNat 32 (artifactSize t) }

/-- R190: output that passes check 2 and does not fail is the header and, right behind it, the payload. -/
theorem encodeOutput_ok {off len dst : Nat} {t u : State} (hn : t.codeNsym.toNat ≤ 256)
    (h : encodeOutput off len dst t = .ok () u) :
    dst + artifactSize t ≤ t.obufBytes.toNat ∧ u = encoded dst (t.ibufRange off len) t := by
  by_cases hfits : dst + artifactSize t ≤ t.obufBytes.toNat
  · simp only [encodeOutput, State.outputFits, hfits, decide_true, if_true] at h
    obtain ⟨m, v, hpack, hv⟩ := Proc.andThen_eq_ok h
    refine ⟨hfits, ?_⟩
    obtain ⟨-, hp⟩ | ⟨-, ⟨-, hp⟩ | ⟨-, hp⟩⟩ := procPack_cases off len (dst + headerLen t.codeNsym.toNat)
      (t.writeObuf dst (headerBytes len t.codeNsym.toNat t))
    · simp [hp] at hpack
    · simp [hp] at hpack
    · rw [hp] at hpack
      cases hpack
      cases hv
      have hlen : (t.ibufRange off len).length = len := t.ibufRange_length off len
      simp only [encoded, artifactBytes, State.writeObuf_append, headerBytes_length _ hn, hlen]
      rfl
  · simp [encodeOutput, State.outputFits, hfits] at h

/-- An ENCODE that reports DONE built its tables, found room for the artifact and left the encoded state (R190). -/
theorem exec_encode_done {s t : State} (hexec : exec .encode s = .next t) (hdone : t.status.done = true) :
    ∃ u, encodeTables s.srcOff.toNat s.srcLen.toNat s = .ok () u ∧
      s.dstOff.toNat + artifactSize u ≤ u.obufBytes.toNat ∧
      t = complete .encode s (.ok () (encoded s.dstOff.toNat s.source u)) := by
  have ht : complete .encode s (cmdEncode s) = t := Host.Outcome.next.inj hexec
  subst ht
  cases hcmd : cmdEncode s with
  | fail k v => simp [hcmd] at hdone
  | ok _ v =>
    by_cases hin : s.inputFits s.srcOff.toNat s.srcLen.toNat = true
    · rw [cmdEncode, if_pos hin] at hcmd
      obtain ⟨_, u, htables, hout⟩ := Proc.andThen_eq_ok hcmd
      obtain ⟨hfits, rfl⟩ := encodeOutput_ok (encodeTables_codeNsym_le htables) hout
      exact ⟨u, htables, hfits, by rw [encodeTables_ibufRange htables]⟩
    · rw [cmdEncode, if_neg hin] at hcmd
      cases hcmd

/-- R190, R191: a successful ENCODE leaves the artifact's bytes at DST_OFF and their number in DST_LEN. -/
theorem exec_encode_artifact {s t : State} (hexec : exec .encode s = .next t) (hdone : t.status.done = true) :
    ∃ u, encodeTables s.srcOff.toNat s.srcLen.toNat s = .ok () u ∧
      t.dstLen.toNat = (artifactBytes s.source u).length ∧
      t.obufRange s.dstOff.toNat t.dstLen.toNat = artifactBytes s.source u := by
  obtain ⟨u, htables, hfits, rfl⟩ := exec_encode_done hexec hdone
  have hsize := artifactSize_encodeTables htables s.srcLen.isLt
  have hroom : artifactSize u < 2 ^ 32 := (Nat.le_of_add_left_le hfits).trans_lt u.obufBytes.isLt
  have hdst : (encoded s.dstOff.toNat s.source u).dstLen.toNat = (artifactBytes s.source u).length := by
    rw [encoded, BitVec.toNat_ofNat, Nat.mod_eq_of_lt hroom, hsize]
  refine ⟨u, htables, hdst, ?_⟩
  rw [complete_ok_dstLen, hdst]
  exact u.obufRange_writeObuf s.dstOff.toNat (artifactBytes s.source u)

/-- Settles O51: equal input bytes give equal counters, from these the same tree and code table, and the artifact is a
function of the bytes and that table. -/
theorem artifactDependsOnTheInputAlone : Obligations.ArtifactDependsOnTheInputAlone := by
  intro s s' t t' hbytes hexec hexec' hdone hdone'
  obtain ⟨u, htables, hlen, hout⟩ := exec_encode_artifact hexec hdone
  obtain ⟨u', htables', hlen', hout'⟩ := exec_encode_artifact hexec' hdone'
  obtain ⟨hlengths, hcodes⟩ := encodeTables_congr hbytes htables htables'
  have hart : artifactBytes s'.source u' = artifactBytes s.source u := by
    rw [artifactBytes_congr _ hlengths hcodes, State.source, State.source, hbytes]
  exact ⟨BitVec.eq_of_toNat_eq (by rw [hlen, hlen', hart]), by rw [hout, hout', hart]⟩

end Sys2Proof.Machine
end

section
/-! PROOFS. The canonical code (spec/43_code_table.md R154, R155): the blocks of 255-bit strings that begin with a symbol's
code lie one behind the other from 0 on, so with a Kraft sum of at most 1 every code fits and none begins another. -/

namespace Sys2Proof.Machine

/-! ## The sorted list of symbols -/

theorem mem_sortedSymbols (l : SymTable Byte) (x : Byte) : x ∈ sortedSymbols l ↔ getSym l x ≠ 0#8 := by
  rw [sortedSymbols, List.mem_insertionSort, List.mem_filter, bne_iff_ne]
  exact and_iff_right (mem_allSymbols x)

theorem sortedSymbols_nodup (l : SymTable Byte) : (sortedSymbols l).Nodup :=
  (List.perm_insertionSort _ _).nodup_iff.2 (allSymbols_nodup.filter _)

theorem symLe_total (l : SymTable Byte) (a b : Byte) : symLe l a b ∨ symLe l b a := by
  simp only [symLe, BitVec.lt_def, BitVec.le_def, ← BitVec.toNat_inj]
  omega

theorem symLe_trans (l : SymTable Byte) (a b c : Byte) (hab : symLe l a b) (hbc : symLe l b c) : symLe l a c := by
  simp only [symLe, BitVec.lt_def, BitVec.le_def, ← BitVec.toNat_inj] at *
  omega

/-- R154: the list S ascends in key order. -/
theorem sortedSymbols_pairwise_keyLt (l : SymTable Byte) : (sortedSymbols l).Pairwise (KeyLt l) := by
  have htotal : Std.Total (symLe l) := ⟨symLe_total l⟩
  have htrans : IsTrans Byte (symLe l) := ⟨symLe_trans l⟩
  have hsorted : (sortedSymbols l).Pairwise (symLe l) := List.pairwise_insertionSort _ _
  refine hsorted.imp₂ (fun a b hle hne => ?_) (sortedSymbols_nodup l)
  exact hle.imp_right fun ⟨hlen, hsym⟩ => ⟨hlen, BitVec.lt_of_le_ne hsym hne⟩

theorem KeyLt.ne {l : SymTable Byte} {a b : Byte} (h : KeyLt l a b) : a ≠ b := by
  rintro rfl
  simp [KeyLt] at h

theorem KeyLt.len_le {l : SymTable Byte} {a b : Byte} (h : KeyLt l a b) : (getSym l a).toNat ≤ (getSym l b).toNat := by
  obtain hlt | ⟨heq, -⟩ := h
  · exact (BitVec.lt_def.1 hlt).le
  · rw [heq]

/-! ## Blocks of bit strings -/

/-- How many strings of 255 bits begin with the code of x: the term of x in the Kraft sum (R155). -/
def blockSize (l : SymTable Byte) (x : Byte) : Nat := 2 ^ (Config.lmax - (getSym l x).toNat)

/-- The first string of 255 bits that begins with the code of x, as a number. -/
def blockStart (l : SymTable Byte) (c : SymTable Code) (x : Byte) : Nat := (getSym c x).toNat * blockSize l x

/-- From `base` on, the block of each symbol of the list begins where the one before it ends. -/
def Consecutive (l : SymTable Byte) (c : SymTable Code) : Nat → List Byte → Prop
  | _, [] => True
  | base, x :: xs => blockStart l c x = base ∧ Consecutive l c (base + blockSize l x) xs

theorem kraftSum_eq_sum_blockSize (l : SymTable Byte) (xs : List Byte) :
    kraftSum (xs.map fun x => (getSym l x).toNat) = (xs.map (blockSize l)).sum := by
  rw [kraftSum, List.map_map]
  rfl

section
variable {l : SymTable Byte} {c : SymTable Code} {x y : Byte}

theorem blockSize_pos : 0 < blockSize l x := Nat.two_pow_pos _

theorem pow_len_mul_blockSize : 2 ^ (getSym l x).toNat * blockSize l x = 2 ^ 255 := by
  rw [blockSize, ← Nat.pow_add, Config.lmax, Nat.add_sub_cancel' (Nat.le_of_lt_succ (getSym l x).isLt)]

/-- The block of a longer code is as many times smaller as the code has more bits. -/
theorem pow_sub_mul_blockSize (h : (getSym l x).toNat ≤ (getSym l y).toNat) :
    2 ^ ((getSym l y).toNat - (getSym l x).toNat) * blockSize l y = blockSize l x := by
  have hy : (getSym l y).toNat ≤ 255 := Nat.le_of_lt_succ (getSym l y).isLt
  rw [blockSize, blockSize, ← Nat.pow_add, Config.lmax]
  congr 1
  omega

/-- Consecutive blocks all lie between the base and the end of the last one. -/
theorem Consecutive.bounds {base : Nat} {xs : List Byte} (h : Consecutive l c base xs) (hx : x ∈ xs) :
    base ≤ blockStart l c x ∧ blockStart l c x + blockSize l x ≤ base + (xs.map (blockSize l)).sum := by
  induction xs generalizing base with
  | nil => simp at hx
  | cons a xs ih =>
    obtain ⟨hstart, hrest⟩ := h
    rw [List.map_cons, List.sum_cons]
    obtain rfl | hmem := List.mem_cons.1 hx
    · omega
    · have := ih hrest hmem
      omega

/-- Of the blocks of two symbols one ends before the other begins. -/
theorem Consecutive.disjoint {base : Nat} {xs : List Byte} (h : Consecutive l c base xs) (hx : x ∈ xs) (hy : y ∈ xs)
    (hne : x ≠ y) :
    blockStart l c x + blockSize l x ≤ blockStart l c y ∨ blockStart l c y + blockSize l y ≤ blockStart l c x := by
  induction xs generalizing base with
  | nil => simp at hx
  | cons a xs ih =>
    obtain ⟨hstart, hrest⟩ := h
    obtain rfl | hxs := List.mem_cons.1 hx
    · have hys := (List.mem_cons.1 hy).resolve_left hne.symm
      exact .inl (hstart ▸ (hrest.bounds hys).1)
    · obtain rfl | hys := List.mem_cons.1 hy
      · exact .inr (hstart ▸ (hrest.bounds hxs).1)
      · exact ih hrest hxs hys

/-- A block inside the 255-bit strings is the block of a code that fits its length (R35). -/
theorem code_lt_of_block_le (h : blockStart l c x + blockSize l x ≤ 2 ^ 255) :
    (getSym c x).toNat < 2 ^ (getSym l x).toNat := by
  rw [blockStart, ← pow_len_mul_blockSize (l := l) (x := x), ← Nat.succ_mul] at h
  exact Nat.le_of_mul_le_mul_right h blockSize_pos

/-- A code that begins another has the other's block inside its own. -/
theorem blockStart_of_codePrefix
    (h : CodePrefix (getSym l x).toNat (getSym c x).toNat (getSym l y).toNat (getSym c y).toNat) :
    blockStart l c x ≤ blockStart l c y ∧ blockStart l c y < blockStart l c x + blockSize l x := by
  obtain ⟨hlen, hcode⟩ := h
  rw [Nat.shiftRight_eq_div_pow] at hcode
  have hsize := pow_sub_mul_blockSize hlen
  have hlow := Nat.div_mul_le_self (getSym c y).toNat (2 ^ ((getSym l y).toNat - (getSym l x).toNat))
  have hhigh := Nat.lt_div_mul_add (a := (getSym c y).toNat) (Nat.two_pow_pos ((getSym l y).toNat - (getSym l x).toNat))
  rw [hcode] at hlow hhigh
  rw [blockStart, blockStart, ← hsize, ← Nat.mul_assoc, ← Nat.add_mul]
  exact ⟨Nat.mul_le_mul_right _ hlow, Nat.mul_lt_mul_of_pos_right hhigh blockSize_pos⟩

/-! ## The assignment -/

theorem getSym_assignNext_of_notMem {xs : List Byte} (hx : x ∉ xs) (p v : Nat) (c : SymTable Code) :
    getSym (assignNext l p v xs c) x = getSym c x := by
  induction xs generalizing p v c with
  | nil => rfl
  | cons a xs ih =>
    rw [List.mem_cons, not_or] at hx
    rw [assignNext, ih hx.2, getSym_setSym_other _ _ hx.1]

/-- R154: the previous code plus one, shifted left by the growth in length, begins its block where the previous one
ends. -/
theorem succ_shift_mul_blockSize {p v : Nat} (hp : p ≤ (getSym l x).toNat) :
    (v + 1) <<< ((getSym l x).toNat - p) * blockSize l x = (v + 1) * 2 ^ (Config.lmax - p) := by
  have hx : (getSym l x).toNat ≤ 255 := Nat.le_of_lt_succ (getSym l x).isLt
  rw [Nat.shiftLeft_eq, Nat.mul_assoc, blockSize, ← Nat.pow_add, Config.lmax]
  congr 2
  omega

/-- The later assignments keep a code, and 255 bits hold it. -/
theorem toNat_getSym_assignNext_head {xs : List Byte} {p v : Nat} (hx : x ∉ xs)
    (hv : v * blockSize l x < 2 ^ 255) :
    (getSym (assignNext l p v xs (setSym c x (BitVec.ofNat 255 v))) x).toNat = v := by
  rw [getSym_assignNext_of_notMem hx, getSym_setSym_same, BitVec.toNat_ofNat]
  exact Nat.mod_eq_of_lt ((Nat.le_mul_of_pos_right v blockSize_pos).trans_lt hv)

/-- After a code v of length p, the codes of the symbols that follow in key order have consecutive blocks, as long as
these stay within the 255-bit strings. -/
theorem consecutive_assignNext {xs : List Byte} (hkeys : xs.Pairwise (KeyLt l)) {p v : Nat}
    (hp : ∀ x ∈ xs, p ≤ (getSym l x).toNat)
    (hfit : (v + 1) * 2 ^ (Config.lmax - p) + (xs.map (blockSize l)).sum ≤ 2 ^ 255) (c : SymTable Code) :
    Consecutive l (assignNext l p v xs c) ((v + 1) * 2 ^ (Config.lmax - p)) xs := by
  induction xs generalizing p v c with
  | nil => trivial
  | cons x xs ih =>
    obtain ⟨hxlt, hkeys⟩ := List.pairwise_cons.1 hkeys
    have hx : x ∉ xs := fun hmem => (hxlt x hmem).ne rfl
    have hbase := succ_shift_mul_blockSize (v := v) (hp x List.mem_cons_self)
    rw [List.map_cons, List.sum_cons, ← hbase, ← Nat.add_assoc, ← Nat.succ_mul] at hfit
    have hlt : (v + 1) <<< ((getSym l x).toNat - p) * blockSize l x < 2 ^ 255 := by
      have := blockSize_pos (l := l) (x := x)
      rw [Nat.succ_mul] at hfit
      omega
    rw [← hbase]
    refine ⟨by rw [blockStart, assignNext, toNat_getSym_assignNext_head hx hlt], ?_⟩
    rw [← Nat.succ_mul]
    exact ih hkeys (fun y hy => (hxlt y hy).len_le) hfit _

/-- R154: the canonical codes have consecutive blocks from 0 on. -/
theorem consecutive_assignCodes {xs : List Byte} (hkeys : xs.Pairwise (KeyLt l))
    (hfit : (xs.map (blockSize l)).sum ≤ 2 ^ 255) (c : SymTable Code) : Consecutive l (assignCodes l xs c) 0 xs := by
  cases xs with
  | nil => trivial
  | cons x xs =>
    obtain ⟨hxlt, hkeys⟩ := List.pairwise_cons.1 hkeys
    have hx : x ∉ xs := fun hmem => (hxlt x hmem).ne rfl
    have hnext := consecutive_assignNext hkeys (p := (getSym l x).toNat) (v := 0) (fun y hy => (hxlt y hy).len_le)
      (by simpa [blockSize] using hfit) (setSym c x 0#255)
    refine ⟨?_, by simpa [blockSize, assignCodes] using hnext⟩
    rw [blockStart, assignCodes, getSym_assignNext_of_notMem hx, getSym_setSym_same, BitVec.toNat_zero, Nat.zero_mul]

/-- R155, R40(g): lengths that pass the Kraft test make the canonical codes a code tree. -/
theorem codeTree_assignCodes (hkraft : kraftOk ((sortedSymbols l).map fun x => (getSym l x).toNat) = true)
    (c : SymTable Code) : CodeTree l (assignCodes l (sortedSymbols l) c) := by
  have hfit : ((sortedSymbols l).map (blockSize l)).sum ≤ 2 ^ 255 :=
    (kraftSum_eq_sum_blockSize l _).symm.trans_le (of_decide_eq_true hkraft)
  have hblocks := consecutive_assignCodes (sortedSymbols_pairwise_keyLt l) hfit c
  constructor
  case fits =>
    intro x hx
    have hend := (hblocks.bounds ((mem_sortedSymbols l x).2 hx)).2
    exact code_lt_of_block_le (by omega)
  case prefix_free =>
    intro x y hne hx hy hprefix
    have hin := blockStart_of_codePrefix hprefix
    have hapart := hblocks.disjoint ((mem_sortedSymbols l x).2 hx) ((mem_sortedSymbols l y).2 hy) hne
    have hpos := blockSize_pos (l := l) (x := y)
    omega

end

end Sys2Proof.Machine
end

section
/-! PROOFS. The Decoder (spec/46_decoder.md): a header laid out by R90 to R94 parses back (R201), its symbol table passes
the checks and restores LEN, and so the code table (R202, R204), and DECODE of ENCODE's artifact is the input (R210). -/

namespace Sys2Proof.Machine

/-! ## The header -/

/-- The bytes of a header (R90 to R94): magic, originalLength, symbolCount, and the symbol table. -/
def layoutHeader (h : Header) : List Byte :=
  Config.magic ++ (List.range 4).map (leByte h.origLen)
    ++ [BitVec.ofNat 8 h.entries.length, BitVec.ofNat 8 (h.entries.length / 256)]
    ++ h.entries.flatMap fun e => [e.1, e.2]

theorem layoutHeader_length (h : Header) : (layoutHeader h).length = headerLen h.entries.length := by
  simp only [layoutHeader, headerLen, Config.magic, List.length_append, List.length_map, List.length_range,
    List.length_flatMap, List.length_cons, List.length_nil, List.map_const', List.sum_replicate, smul_eq_mul]
  omega

theorem layoutHeader_append (h : Header) (rest : List Byte) :
    layoutHeader h ++ rest =
      [0x48#8, 0x55#8, 0x46#8, 0x31#8, leByte h.origLen 0, leByte h.origLen 1, leByte h.origLen 2, leByte h.origLen 3,
        BitVec.ofNat 8 h.entries.length, BitVec.ofNat 8 (h.entries.length / 256)]
        ++ (h.entries.flatMap (fun e => [e.1, e.2]) ++ rest) := by
  rw [← List.append_assoc]
  rfl

theorem le32_leByte {v : Nat} (hv : v < 2 ^ 32) : le32 (leByte v 0) (leByte v 1) (leByte v 2) (leByte v 3) = v := by
  simp only [le32, leByte, BitVec.toNat_ofNat]
  omega

theorem le16_ofNat {v : Nat} (hv : v < 2 ^ 16) : le16 (BitVec.ofNat 8 v) (BitVec.ofNat 8 (v / 256)) = v := by
  simp only [le16, BitVec.toNat_ofNat]
  omega

/-- R94: entry i of a symbol table is its bytes 2i and 2i + 1. -/
theorem getD_flatMap_entries (es : List (Byte × Byte)) (rest : List Byte) {i : Nat} (hi : i < es.length) :
    ((es.flatMap (fun e => [e.1, e.2]) ++ rest).getD (2 * i) 0#8,
      (es.flatMap (fun e => [e.1, e.2]) ++ rest).getD (2 * i + 1) 0#8) = es[i] := by
  induction es generalizing i with
  | nil => simp at hi
  | cons e es ih =>
    cases i with
    | zero => rfl
    | succ i => exact ih (Nat.lt_of_succ_lt_succ hi)

/-- R201: a header that was laid out with a 32-bit originalLength and at most 256 entries parses back. -/
theorem parseHeader_layoutHeader {h : Header} (hlen : h.origLen < 2 ^ 32) (hcount : h.entries.length ≤ 256)
    (rest : List Byte) : parseHeader (layoutHeader h ++ rest) = .ok h := by
  have hsize : headerLen h.entries.length ≤ (layoutHeader h ++ rest).length := by
    rw [List.length_append, layoutHeader_length]
    exact Nat.le_add_right _ _
  have hmin : 10 ≤ (layoutHeader h ++ rest).length := (Nat.le_add_right _ _).trans hsize
  have hmagic : (layoutHeader h ++ rest).take 4 = Config.magic := rfl
  have horig : le32 ((layoutHeader h ++ rest).getD 4 0#8) ((layoutHeader h ++ rest).getD 5 0#8)
      ((layoutHeader h ++ rest).getD 6 0#8) ((layoutHeader h ++ rest).getD 7 0#8) = h.origLen := le32_leByte hlen
  have hn : le16 ((layoutHeader h ++ rest).getD 8 0#8) ((layoutHeader h ++ rest).getD 9 0#8) = h.entries.length :=
    le16_ofNat (by omega)
  have hentries : ((List.range h.entries.length).map fun i =>
      ((layoutHeader h ++ rest).getD (10 + 2 * i) 0#8, (layoutHeader h ++ rest).getD (11 + 2 * i) 0#8)) =
        h.entries := by
    refine List.ext_getElem (by simp) fun i _ hi => ?_
    rw [List.getElem_map, List.getElem_range, Nat.add_comm 10, Nat.add_comm 11, layoutHeader_append]
    exact getD_flatMap_entries h.entries rest hi
  simp only [parseHeader, hn, horig, hentries, hmagic, hmin.not_gt, hcount.not_gt, hsize.not_gt, ne_eq,
    not_true_eq_false, if_false]

/-! ## The symbol table -/

/-- The symbol table of a LEN table (R94): each coded symbol with its length, in key order. -/
def tableEntries (l : SymTable Byte) : List (Byte × Byte) := (sortedSymbols l).map fun x => (x, getSym l x)

theorem tableEntries_length_le (l : SymTable Byte) : (tableEntries l).length ≤ 256 := by
  rw [tableEntries, List.length_map]
  exact sortedSymbols_length_le l

/-- R202: the symbol table of lengths that pass the Kraft test is valid. -/
theorem lengthsValid_tableEntries {l : SymTable Byte}
    (hkraft : kraftOk ((sortedSymbols l).map fun x => (getSym l x).toNat) = true) :
    lengthsValid (tableEntries l) = true := by
  have hsyms : (tableEntries l).map Prod.fst = sortedSymbols l := by simp [tableEntries, Function.comp_def]
  have hlens : ((tableEntries l).map fun e => e.2.toNat) = (sortedSymbols l).map fun x => (getSym l x).toNat := by
    simp [tableEntries, Function.comp_def]
  have hcoded : ((tableEntries l).all fun e => e.2 != 0#8) = true := by
    simp [tableEntries, mem_sortedSymbols]
  simp only [lengthsValid, hsyms, hlens, hcoded, hkraft, sortedSymbols_nodup, decide_true, Bool.and_true]

theorem getSym_loadLengths (l : SymTable Byte) (f : Byte → Byte) (syms : List Byte) (x : Byte) :
    getSym (loadLengths l (syms.map fun y => (y, f y))) x = if x ∈ syms then f x else getSym l x := by
  induction syms generalizing l with
  | nil => rfl
  | cons y syms ih =>
    rw [List.map_cons, loadLengths, ih, getSym_setSym]
    by_cases hy : x = y
    · simp [hy]
    · simp [hy]

/-- R204: loading its own symbol table into the cleared LEN gives a LEN table back. -/
theorem loadLengths_tableEntries (l : SymTable Byte) :
    loadLengths (Vector.replicate 256 0#8) (tableEntries l) = l := by
  refine symTable_ext _ _ fun x => ?_
  rw [tableEntries, getSym_loadLengths, getSym_replicate]
  split
  · rfl
  · next h => exact (not_not.1 (h ∘ (mem_sortedSymbols l x).2)).symm

/-! ## The command -/

/-- The codes that `Canon` makes of a LEN table (R154). -/
abbrev canonicalCodes (l : SymTable Byte) : SymTable Code :=
  assignCodes l (sortedSymbols l) (Vector.replicate 256 0#255)

/-- What the table commit makes of a state (R204). -/
def tableCommitted (l : SymTable Byte) (origLen : Nat) (s : State) : State :=
  { s with
    len := l
    code := canonicalCodes l
    order := fillFrom (Vector.replicate 256 0#8) 0 (sortedSymbols l)
    codeNsym := BitVec.ofNat 9 (sortedSymbols l).length
    status := { s.status with tblv := true }
    origLen := BitVec.ofNat 32 origLen }

theorem commitTable_tableEntries {l : SymTable Byte}
    (hkraft : kraftOk ((sortedSymbols l).map fun x => (getSym l x).toNat) = true) (n : Nat) (s : State) :
    commitTable ⟨n, tableEntries l⟩ s = .ok () (tableCommitted l n s) := by
  rw [commitTable, loadLengths_tableEntries]
  obtain ⟨-, hc⟩ | ⟨hfail, -⟩ := procCanon_cases { s with len := l }
  · rw [hc]
    rfl
  · simp [hkraft] at hfail

theorem State.ibufRange_drop (s : State) (off len k : Nat) :
    (s.ibufRange off len).drop k = s.ibufRange (off + k) (len - k) := by
  refine List.ext_getElem (by simp) fun i _ _ => ?_
  simp [State.ibufRange, Nat.add_assoc]

/-- R205, R206: a payload that fits and reads as `out` is stored, and DSTATE ends in Done. -/
theorem decodePayload_ok {off alen dst : Nat} {h : Header} {t : State} {out : List Byte}
    (houtput : dst + h.origLen ≤ t.obufBytes.toNat)
    (hread : readSymbols t.len t.code h.origLen
      (streamBits ((t.ibufRange off alen).drop (headerLen h.entries.length))) = .ok out) :
    decodePayload off alen dst h t =
      .ok () ({ t.writeObuf dst out with dstLen := BitVec.ofNat 32 h.origLen }.setDState .done) := by
  have hfits : t.outputFits dst h.origLen = true := decide_eq_true houtput
  rw [State.ibufRange_drop] at hread
  rw [decodePayload, if_pos hfits, procUnpack, hread]
  rfl

/-- The body of DECODE when the header parses and its lengths are valid (R200). -/
theorem cmdDecode_of_header {s : State} {h : Header} (hinput : s.srcOff.toNat + s.srcLen.toNat ≤ s.ibufBytes.toNat)
    (hparse : parseHeader s.source = .ok h) (hvalid : lengthsValid h.entries = true) :
    cmdDecode s = (commitTable h s).andThen fun _ t =>
      decodePayload s.srcOff.toNat s.srcLen.toNat s.dstOff.toNat h t := by
  have hin : s.inputFits s.srcOff.toNat s.srcLen.toNat = true := decide_eq_true hinput
  simp only [cmdDecode, hin, hparse, hvalid, if_true]

/-- What DECODE makes of a state: the header's table, the decoded symbols, their number, and DSTATE (R204 to R206). -/
def decoded (l : SymTable Byte) (out : List Byte) (s : State) : State :=
  { (tableCommitted l out.length s).writeObuf s.dstOff.toNat out with
    dstLen := BitVec.ofNat 32 out.length }.setDState .done

/-- R200: DECODE of the header of a LEN table that passes the Kraft test, and behind it a payload that reads as `out`. -/
theorem exec_decode_layoutHeader {s : State} {l : SymTable Byte} {out payload : List Byte}
    (hinput : s.srcOff.toNat + s.srcLen.toNat ≤ s.ibufBytes.toNat)
    (houtput : s.dstOff.toNat + out.length ≤ s.obufBytes.toNat)
    (hkraft : kraftOk ((sortedSymbols l).map fun x => (getSym l x).toNat) = true)
    (hsource : s.source = layoutHeader ⟨out.length, tableEntries l⟩ ++ payload)
    (hread : readSymbols l (canonicalCodes l) out.length (streamBits payload) = .ok out) :
    exec .decode s = .next (complete .decode s (.ok () (decoded l out s))) := by
  have hlen : out.length < 2 ^ 32 := (Nat.le_of_add_left_le houtput).trans_lt s.obufBytes.isLt
  have hparse : parseHeader s.source = .ok ⟨out.length, tableEntries l⟩ :=
    hsource ▸ parseHeader_layoutHeader hlen (tableEntries_length_le l) payload
  have hpayload : s.source.drop (headerLen (tableEntries l).length) = payload := by
    rw [hsource, ← layoutHeader_length ⟨out.length, tableEntries l⟩, List.drop_left]
  have hcmd : cmdDecode s = .ok () (decoded l out s) := by
    rw [cmdDecode_of_header hinput hparse (lengthsValid_tableEntries hkraft), commitTable_tableEntries hkraft]
    exact decodePayload_ok (t := tableCommitted l out.length s) houtput (hpayload ▸ hread)
  calc exec .decode s
      = .next (complete .decode s (cmdDecode s)) := rfl
    _ = _ := by rw [hcmd]

/-! ## The round trip -/

/-- Values written from index 0 on are the first values of the table. -/
theorem take_toList_fillFrom {α : Type} {n : Nat} (t : Vector α n) {xs : List α} (h : xs.length ≤ n) :
    (fillFrom t 0 xs).toList.take xs.length = xs := by
  refine List.ext_getElem? fun i => ?_
  by_cases hi : i < xs.length
  · have hget := getElem?_fillFrom_inside t 0 xs i hi (by omega)
    rw [Nat.zero_add] at hget
    simp [hi, hget]
  · simp [hi]

section
variable {off len : Nat} {s t : State}

/-- A table construction that succeeded passed the Kraft test (R157). -/
theorem encodeTables_kraftOk (h : encodeTables off len s = .ok () t) :
    kraftOk ((sortedSymbols t.len).map fun x => (getSym t.len x).toNat) = true := by
  obtain ⟨hkraft, hc⟩ | ⟨-, hc⟩ := procCanon_cases (procDepth (procBuild (procHist off len s)))
  · rw [encodeTables, hc] at h
    cases h
    exact hkraft
  · rw [encodeTables, hc] at h
    cases h

theorem encodeTables_codeNsym (h : encodeTables off len s = .ok () t) :
    t.codeNsym.toNat = (sortedSymbols t.len).length := by
  obtain ⟨-, -, hnsym⟩ := encodeTables_codes h
  have hle := sortedSymbols_length_le t.len
  rw [hnsym, BitVec.toNat_ofNat, Nat.mod_eq_of_lt (by omega)]

/-- R191: ORDER begins with the coded symbols in key order. -/
theorem encodeTables_order_take (h : encodeTables off len s = .ok () t) :
    t.order.toList.take (sortedSymbols t.len).length = sortedSymbols t.len := by
  obtain ⟨-, horder, -⟩ := encodeTables_codes h
  rw [horder]
  exact take_toList_fillFrom _ (sortedSymbols_length_le t.len)

/-- R191: ENCODE's header is the header of its code table. -/
theorem headerBytes_encodeTables (h : encodeTables off len s = .ok () t) (n : Nat) :
    headerBytes n t.codeNsym.toNat t = layoutHeader ⟨n, tableEntries t.len⟩ := by
  rw [encodeTables_codeNsym h, headerBytes, layoutHeader, encodeTables_order_take h]
  simp only [tableEntries, List.length_map, List.flatMap_map]

end

/-- R190: output that does not fail was packed, so every input byte has a code. -/
theorem coded_of_encodeOutput_ok {off len dst : Nat} {t u : State} (h : encodeOutput off len dst t = .ok () u) :
    ∀ x ∈ t.ibufRange off len, getSym t.len x ≠ 0#8 := by
  by_cases hfits : t.outputFits dst (artifactSize t) = true
  · rw [encodeOutput, if_pos hfits] at h
    obtain ⟨_, _, hpack, -⟩ := Proc.andThen_eq_ok h
    obtain ⟨-, hp⟩ | ⟨hcoded, -⟩ := procPack_cases off len (dst + headerLen t.codeNsym.toNat)
      (t.writeObuf dst (headerBytes len t.codeNsym.toNat t))
    · rw [hp] at hpack
      cases hpack
    · exact hcoded
  · rw [encodeOutput, if_neg hfits] at h
    cases h

/-- R190: an ENCODE that reports DONE has a code for every input byte. -/
theorem coded_of_exec_encode_done {s t u : State} (hexec : exec .encode s = .next t) (hdone : t.status.done = true)
    (htables : encodeTables s.srcOff.toNat s.srcLen.toNat s = .ok () u) : ∀ x ∈ s.source, getSym u.len x ≠ 0#8 := by
  have ht : complete .encode s (cmdEncode s) = t := Host.Outcome.next.inj hexec
  subst ht
  cases hcmd : cmdEncode s with
  | fail k v => simp [hcmd] at hdone
  | ok _ v =>
    by_cases hin : s.inputFits s.srcOff.toNat s.srcLen.toNat = true
    · rw [cmdEncode, if_pos hin, htables, Proc.andThen_ok] at hcmd
      have hcoded := coded_of_encodeOutput_ok hcmd
      rwa [encodeTables_ibufRange htables] at hcoded
    · rw [cmdEncode, if_neg hin] at hcmd
      cases hcmd

/-- Settles O56: the header gives DECODE the lengths ENCODE packed with, `Canon` makes the same codes of them, no code
begins another since the lengths passed the Kraft test, and so the payload reads as the input. -/
theorem decodeInvertsEncode : Obligations.DecodeInvertsEncode := by
  intro s t u hexec hdone hsrcLen hinput hbytes houtput
  obtain ⟨e, htables, -, hart⟩ := exec_encode_artifact hexec hdone
  have hcoded := coded_of_exec_encode_done hexec hdone htables
  have hkraft := encodeTables_kraftOk htables
  obtain ⟨hcode, -, -⟩ := encodeTables_codes htables
  have hlen : s.source.length = s.srcLen.toNat := s.ibufRange_length _ _
  have hsource : u.source = layoutHeader ⟨s.source.length, tableEntries e.len⟩ ++
      packBytes (symbolBits e.len e.code s.source) (bytesFor (totalBits e.len s.source)) := by
    rw [State.source, hbytes, hart, artifactBytes, headerBytes_encodeTables htables]
  have hread : readSymbols e.len (canonicalCodes e.len) s.source.length (streamBits
      (packBytes (symbolBits e.len e.code s.source) (bytesFor (totalBits e.len s.source)))) = .ok s.source := by
    rw [streamBits_packBytes, List.take_of_length_le (by rw [symbolBits_length, bytesFor]; omega), hcode]
    exact readSymbols_symbolBits (codeTree_assignCodes hkraft _) hcoded _
  have hdstLen : BitVec.ofNat 32 s.source.length = s.srcLen := by rw [hlen, BitVec.ofNat_toNat, BitVec.setWidth_eq]
  refine ⟨_, exec_decode_layoutHeader hinput (hlen ▸ houtput) hkraft hsource hread, rfl, rfl, hdstLen, ?output⟩
  case output =>
    have hcount : (BitVec.ofNat 32 s.source.length).toNat = s.source.length := by rw [hdstLen, hlen]
    exact (congrArg (State.obufRange _ _) hcount).trans
      ((tableCommitted e.len s.source.length u).obufRange_writeObuf u.dstOff.toNat s.source)

end Sys2Proof.Machine
end

section
/-! PROOFS. The NODE table (spec/10_state.md R32, R33): what a write of one entry does to the entries and to the sums over
the table, and which node the priority queue gives up (spec/42_tree_builder.md R130, R139). -/

namespace Sys2Proof.Machine

/-! ## Entries -/

theorem nodeAt_eq_entry (t : NodeTable) (i : NodeIdx) : nodeAt t i = entry t i.toNat := rfl

theorem entry_of_le {i : Nat} (t : NodeTable) (hi : 511 ≤ i) : entry t i = Node.free := by
  simp [entry, hi]

theorem entry_eq_getElem (t : NodeTable) {i : Nat} (hi : i < 511) : entry t i = t.toList[i]'(by simpa using hi) := by
  simp [entry, hi]

theorem entry_setNode (t : NodeTable) {i : NodeIdx} (hi : i.toNat < 511) (n : Node) (j : Nat) :
    entry (setNode t i n) j = if j = i.toNat then n else entry t j := by
  unfold entry setNode
  split
  · next h => simp [h, hi]
  · next h => rw [Vector.getElem?_setIfInBounds_ne (Ne.symm h)]

/-- NIL has no entry to write (R32; log 6). -/
theorem setNode_nil (t : NodeTable) (n : Node) : setNode t Config.nil n = t := by
  apply Vector.ext
  intro i hi
  exact Vector.getElem_setIfInBounds_ne (by simpa using hi) (by simp [Config.nil]; omega)

theorem eq_nil_or_toNat_lt (i : NodeIdx) : i = Config.nil ∨ i.toNat < 511 := by
  unfold Config.nil
  bv_omega

/-- Leaving the queue clears `inq` and nothing else; at NIL there is nothing to clear. -/
theorem entry_dequeue (t : NodeTable) (m : NodeIdx) (j : Nat) :
    entry (dequeue t m) j = if j = m.toNat then { entry t j with inq := false } else entry t j := by
  obtain rfl | hm := eq_nil_or_toNat_lt m
  · rw [dequeue, setNode_nil]
    split
    · next h => rw [h, entry_of_le t (by decide)]; rfl
    · rfl
  · rw [dequeue, entry_setNode t hm, nodeAt_eq_entry]
    split
    · next h => rw [h]
    · rfl

/-! ## Sums over the table -/

/-- A weight of nodes, summed over the table. -/
def weigh (w : Node → Nat) (t : NodeTable) : Nat := (t.toList.map w).sum

/-- One for a Leaf. -/
def leafWeight (n : Node) : Nat := (n.kind == .leaf).toNat

/-- One for a queued node. -/
def queuedWeight (n : Node) : Nat := n.queued.toNat

/-- The frequency of a queued node. -/
def freqWeight (n : Node) : Nat := if n.queued then n.freq.toNat else 0

theorem countP_eq_sum_toNat {α : Type} (p : α → Bool) (xs : List α) : xs.countP p = (xs.map fun x => (p x).toNat).sum := by
  induction xs with
  | nil => rfl
  | cons x xs ih => cases h : p x <;> simp [h, ih, Nat.add_comm]

theorem leafCount_eq_weigh (t : NodeTable) : leafCount t = weigh leafWeight t := countP_eq_sum_toNat _ _

theorem queuedCount_eq_weigh (t : NodeTable) : queuedCount t = weigh queuedWeight t := countP_eq_sum_toNat _ _

theorem queuedFreq_eq_weigh (t : NodeTable) : queuedFreq t = weigh freqWeight t := by
  unfold queuedFreq weigh
  induction t.toList with
  | nil => rfl
  | cons n ns ih => cases h : n.queued <;> simp [h, ih, freqWeight]

/-- A write of one entry trades its old weight for the new one. -/
theorem weigh_setNode (w : Node → Nat) (t : NodeTable) {i : NodeIdx} (hi : i.toNat < 511) (n : Node) :
    weigh w (setNode t i n) + w (entry t i.toNat) = weigh w t + w n := by
  have hlen : i.toNat < (t.toList.map w).length := by simpa using hi
  have hset : ((setNode t i n).toList.map w) = (t.toList.map w).set i.toNat (w n) := by
    simp [setNode, List.map_set]
  have hold : w (entry t i.toNat) = (t.toList.map w)[i.toNat] := by rw [entry_eq_getElem t hi, List.getElem_map]
  have hsplit := List.sum_take_add_sum_drop (t.toList.map w) i.toNat
  rw [List.drop_eq_getElem_cons hlen, List.sum_cons] at hsplit
  rw [weigh, weigh, hset, List.sum_set, if_pos hlen, hold]
  omega

theorem weigh_dequeue (w : Node → Nat) (t : NodeTable) (m : NodeIdx) (hm : m.toNat < 511) :
    weigh w (dequeue t m) + w (entry t m.toNat) = weigh w t + w { entry t m.toNat with inq := false } :=
  weigh_setNode w t hm _

theorem exists_queued_of_pos {t : NodeTable} (h : 0 < queuedCount t) : ∃ i, (entry t i).queued = true := by
  obtain ⟨n, hn, hq⟩ := List.countP_pos_iff.1 h
  obtain ⟨i, hi, rfl⟩ := List.getElem_of_mem hn
  have hi' : i < 511 := by simpa using hi
  exact ⟨i, by rwa [entry_eq_getElem t hi']⟩

/-- Nodes of positive weight all lie below i when every entry from i on weighs nothing. -/
theorem leafCount_le_of_unused {t : NodeTable} {n : Nat} (h : ∀ i, i < 511 → n ≤ i → entry t i = Node.free) :
    leafCount t ≤ n := by
  have hrest : (t.toList.drop n).countP (fun x => x.kind == .leaf) = 0 := by
    refine List.countP_eq_zero.2 fun x hx => ?_
    obtain ⟨j, hj, rfl⟩ := List.getElem_of_mem hx
    simp only [List.length_drop, Vector.length_toList] at hj
    rw [List.getElem_drop, ← entry_eq_getElem t (by omega), h _ (by omega) (by omega)]
    decide
  calc leafCount t
      = (t.toList.take n ++ t.toList.drop n).countP (fun x => x.kind == .leaf) := by
        rw [List.take_append_drop, leafCount]
    _ = (t.toList.take n).countP (fun x => x.kind == .leaf) := by rw [List.countP_append, hrest, Nat.add_zero]
    _ ≤ n := List.countP_le_length.trans (List.length_take_le _ _)

/-! ## The least queued node -/

/-- The strict order of `Key(i) = (NODE[i].freq, i)` (R130). -/
abbrev KeyBefore (t : NodeTable) (a b : Nat) : Prop :=
  (entry t a).freq < (entry t b).freq ∨ ((entry t a).freq = (entry t b).freq ∧ a < b)

/-- Node m is the one that `ExtractMin` takes out of the queue (R139). -/
structure IsLeastQueued (t : NodeTable) (m : Nat) : Prop where
  queued : (entry t m).queued = true
  least : ∀ i, (entry t i).queued = true → i ≠ m → KeyBefore t m i

/-- What the search knows when it has seen the entries below i. -/
def LeastBelow (t : NodeTable) (i : Nat) : Option (Nat × Freq) → Prop
  | none => ∀ j, j < i → (entry t j).queued = false
  | some (m, f) => m < i ∧ f = (entry t m).freq ∧ (entry t m).queued = true ∧
      ∀ j, j < i → (entry t j).queued = true → j ≠ m → KeyBefore t m j

theorem not_queued_free : Node.free.queued = false := rfl

theorem lt_of_queued {t : NodeTable} {i : Nat} (h : (entry t i).queued = true) : i < 511 := by
  by_contra hi
  rw [entry_of_le t (by omega), not_queued_free] at h
  exact Bool.false_ne_true h

/-- Seeing an entry that is not queued changes nothing. -/
theorem LeastBelow.skip {t : NodeTable} {i : Nat} {best : Option (Nat × Freq)} (h : LeastBelow t i best)
    (hi : (entry t i).queued = false) : LeastBelow t (i + 1) best := by
  cases best with
  | none =>
    intro j hj
    obtain rfl | hlt := Nat.eq_or_lt_of_le (Nat.le_of_lt_succ hj)
    · exact hi
    · exact h j hlt
  | some p =>
    obtain ⟨hm, hf, hq, hleast⟩ := h
    refine ⟨by omega, hf, hq, fun j hj hjq hne => ?_⟩
    obtain rfl | hlt := Nat.eq_or_lt_of_le (Nat.le_of_lt_succ hj)
    · rw [hi] at hjq; exact absurd hjq Bool.false_ne_true
    · exact hleast j hlt hjq hne

/-- A queued entry is the best when none was found before it. -/
theorem LeastBelow.first {t : NodeTable} {i : Nat} (h : LeastBelow t i none) (hi : (entry t i).queued = true) :
    LeastBelow t (i + 1) (some (i, (entry t i).freq)) := by
  refine ⟨by omega, rfl, hi, fun j hj hjq hne => ?_⟩
  rw [h j (by omega)] at hjq
  exact absurd hjq Bool.false_ne_true

/-- A queued entry takes the place of the best exactly when its frequency is smaller. -/
theorem LeastBelow.compare {t : NodeTable} {i m : Nat} {f : Freq} (h : LeastBelow t i (some (m, f)))
    (hi : (entry t i).queued = true) :
    LeastBelow t (i + 1) (if (entry t i).freq < f then some (i, (entry t i).freq) else some (m, f)) := by
  obtain ⟨hm, rfl, hq, hleast⟩ := h
  split
  · next hlt =>
    refine ⟨by omega, rfl, hi, fun j hj hjq hne => ?_⟩
    by_cases hjm : j = m
    · exact .inl (hjm ▸ hlt)
    · have := hleast j (by omega) hjq hjm
      simp only [KeyBefore, BitVec.lt_def, ← BitVec.toNat_inj] at this hlt ⊢
      omega
  · next hge =>
    refine ⟨by omega, rfl, hq, fun j hj hjq hne => ?_⟩
    by_cases hji : j = i
    · subst hji
      simp only [KeyBefore, BitVec.lt_def, ← BitVec.toNat_inj] at hge ⊢
      omega
    · exact hleast j (by omega) hjq hne

theorem leastBelow_leastFrom {t : NodeTable} {i : Nat} {best : Option (Nat × Freq)} {ns : List Node}
    (hns : t.toList.drop i = ns) (h : LeastBelow t i best) : LeastBelow t 511 (leastFrom best i ns) := by
  induction ns generalizing i best with
  | nil =>
    have hi : 511 ≤ i := by simpa using hns
    simp only [leastFrom]
    cases best with
    | none => exact fun j hj => h j (by omega)
    | some p =>
      obtain ⟨-, hf, hq, hleast⟩ := h
      exact ⟨lt_of_queued hq, hf, hq, fun j hj => hleast j (by omega)⟩
  | cons n ns ih =>
    have hi : i < 511 := by
      by_contra hge
      rw [List.drop_of_length_le (by simp; omega)] at hns
      exact absurd hns (List.cons_ne_nil n ns).symm
    rw [List.drop_eq_getElem_cons (by simpa using hi), List.cons.injEq, ← entry_eq_getElem t hi] at hns
    obtain ⟨rfl, hrest⟩ := hns
    simp only [leastFrom]
    refine ih hrest ?_
    cases hq : (entry t i).queued with
    | false => exact h.skip hq
    | true =>
      cases best with
      | none => exact h.first hq
      | some p => exact h.compare hq

/-- R139: while a node is queued the search finds the least one. -/
theorem leastQueued_spec {t : NodeTable} (h : 0 < queuedCount t) :
    ∃ m, leastQueued t = some m ∧ IsLeastQueued t m.toNat := by
  have hall := leastBelow_leastFrom (t := t) (i := 0) (best := none) rfl (fun j hj => absurd hj (Nat.not_lt_zero j))
  obtain ⟨i, hi⟩ := exists_queued_of_pos h
  rw [List.drop_zero] at hall
  cases hbest : leastFrom none 0 t.toList with
  | none =>
    rw [hbest] at hall
    rw [hall i (lt_of_queued hi)] at hi
    exact absurd hi Bool.false_ne_true
  | some p =>
    rw [hbest] at hall
    obtain ⟨hm, -, hq, hleast⟩ := hall
    have hback : (BitVec.ofNat 9 p.1).toNat = p.1 := Nat.mod_eq_of_lt (by omega)
    refine ⟨BitVec.ofNat 9 p.1, by rw [leastQueued, hbest, Option.map_some], ?_⟩
    rw [hback]
    exact ⟨hq, fun j hj => hleast j (lt_of_queued hj) hj⟩

theorem extractMin_node (s : State) : (extractMin s).2.node = dequeue s.node (extractMin s).1 := rfl

theorem isLeastQueued_extractMin {s : State} (h : 0 < queuedCount s.node) :
    IsLeastQueued s.node (extractMin s).1.toNat := by
  obtain ⟨m, hm, hleast⟩ := leastQueued_spec h
  have hfst : (extractMin s).1 = m := by simp [extractMin, hm]
  rwa [hfst]

theorem IsLeastQueued.lt {t : NodeTable} {m : Nat} (h : IsLeastQueued t m) : m < 511 := lt_of_queued h.queued

theorem Node.queued_iff (n : Node) : n.queued = true ↔ n.kind ≠ .free ∧ n.inq = true := by
  simp [Node.queued]

/-- Taking the least node out of the queue leaves one node less queued and its frequency less in the queue. -/
theorem IsLeastQueued.weights {t : NodeTable} {m : NodeIdx} (h : IsLeastQueued t m.toNat) :
    leafCount (dequeue t m) = leafCount t ∧ queuedCount (dequeue t m) + 1 = queuedCount t ∧
      queuedFreq (dequeue t m) + (entry t m.toNat).freq.toNat = queuedFreq t := by
  have hq := h.queued
  have hout : Node.queued { entry t m.toNat with inq := false } = false := by simp [Node.queued]
  have hleaf := weigh_dequeue leafWeight t m h.lt
  have hcount := weigh_dequeue queuedWeight t m h.lt
  have hfreq := weigh_dequeue freqWeight t m h.lt
  simp only [leafWeight, queuedWeight, freqWeight, hq, hout, Bool.toNat_true, Bool.toNat_false, if_true,
    Bool.false_eq_true, if_false] at hleaf hcount hfreq
  rw [leafCount_eq_weigh, leafCount_eq_weigh, queuedCount_eq_weigh, queuedCount_eq_weigh, queuedFreq_eq_weigh,
    queuedFreq_eq_weigh]
  exact ⟨Nat.add_right_cancel hleaf, hcount, hfreq⟩

end Sys2Proof.Machine
end

section
/-! PROOFS. The TreeBuilder's merge (spec/42_tree_builder.md R133): which nodes it joins, and that it keeps the tree
invariant (spec/10_state.md R40). -/

namespace Sys2Proof.Machine

/-! ## Nodes that differ at most in `inq` -/

/-- Node m is node n, perhaps taken out of the queue. -/
abbrev SameButQueued (n m : Node) : Prop := m = { n with inq := m.inq }

theorem isChild_congr {t u : NodeTable} {p : Nat} (h : SameButQueued (entry t p) (entry u p)) (c : Nat) :
    IsChild u p c ↔ IsChild t p c := by
  rw [IsChild, h]

theorem toNat_ofNat_idx {a : Nat} (ha : a < 511) : (BitVec.ofNat 9 a).toNat = a := Nat.mod_eq_of_lt (by omega)

theorem ofNat_idx_ne_nil {a : Nat} (ha : a < 511) : BitVec.ofNat 9 a ≠ Config.nil := by
  intro h
  have := congrArg BitVec.toNat h
  rw [toNat_ofNat_idx ha] at this
  simp only [Config.nil, BitVec.toNat_ofNat] at this
  omega

theorem toNat_ne_nil {i : NodeIdx} {n : Nat} (hi : i.toNat < n) (hn : n ≤ 511) : i ≠ Config.nil := by
  rintro rfl
  simp only [Config.nil, BitVec.toNat_ofNat] at hi
  omega

/-! ## What the invariant says of the queue -/

section
variable {s : State}

theorem TreeOk.lt_of_kind_ne_free (h : TreeOk s) {i : Nat} (hi : (entry s.node i).kind ≠ .free) :
    i < s.nodeCount.toNat := by
  by_contra hge
  by_cases hlt : i < 511
  · rw [h.unused i hlt (by omega)] at hi
    exact hi rfl
  · rw [entry_of_le _ (by omega)] at hi
    exact hi rfl

theorem TreeOk.lt_of_queued (h : TreeOk s) {i : Nat} (hi : (entry s.node i).queued = true) :
    i < s.nodeCount.toNat :=
  h.lt_of_kind_ne_free ((Node.queued_iff _).1 hi).1

theorem TreeOk.queued_iff (h : TreeOk s) {i : Nat} (hi : i < s.nodeCount.toNat) :
    (entry s.node i).queued = true ↔ (entry s.node i).inq = true := by
  rw [Node.queued_iff]
  exact and_iff_right (h.used i hi)

theorem TreeOk.leafCount_le (h : TreeOk s) : leafCount s.node ≤ s.nodeCount.toNat := leafCount_le_of_unused h.unused

/-- R40(f): a root is made only when the queue has run empty. -/
theorem TreeOk.root_nil (h : TreeOk s) (hq : 0 < s.pqCount.toNat) : s.root = Config.nil := by
  by_contra hroot
  obtain ⟨-, -, h0⟩ := h.root_last hroot
  rw [h0] at hq
  exact Nat.lt_irrefl 0 hq

/-- R141: with nodes queued there is room for another one. -/
theorem TreeOk.nodeCount_add (h : TreeOk s) (hq : 0 < s.pqCount.toNat) :
    s.nodeCount.toNat + s.pqCount.toNat = 2 * leafCount s.node ∧ leafCount s.node ≤ 256 :=
  ⟨h.no_root (h.root_nil hq), h.leaves_le⟩

theorem TreeOk.child_lt (h : TreeOk s) {p c : Nat} (hc : IsChild s.node p c) : c < p ∧ p < s.nodeCount.toNat := by
  obtain ⟨hkind, hchild⟩ := hc
  have hp : p < s.nodeCount.toNat := h.lt_of_kind_ne_free (by rw [hkind]; decide)
  obtain ⟨-, hleft, hright⟩ := h.internal_fields p hp hkind
  obtain hl | ⟨hne, hr⟩ := hchild
  · exact ⟨hl ▸ hleft, hp⟩
  · exact ⟨hr ▸ (hright hne).1, hp⟩

end

/-! ## The two least nodes -/

/-- Table u is table t after the two extractions of `Merge`, which took out the nodes a and b (R133, R139). -/
structure TwoLeast (t u : NodeTable) (a b : Nat) : Prop where
  least : IsLeastQueued t a
  queued : (entry t b).queued = true
  ne : b ≠ a
  least_rest : ∀ i, (entry t i).queued = true → i ≠ a → i ≠ b → KeyBefore t b i
  joined : ∀ i, i = a ∨ i = b → entry u i = { entry t i with inq := false }
  others : ∀ i, ¬ (i = a ∨ i = b) → entry u i = entry t i
  leaves : leafCount u = leafCount t
  queue : queuedCount u + 2 = queuedCount t
  freqs : queuedFreq u + ((entry t a).freq.toNat + (entry t b).freq.toNat) = queuedFreq t

theorem twoLeast_of_isLeastQueued {t : NodeTable} {a b : NodeIdx} (ha : IsLeastQueued t a.toNat)
    (hb : IsLeastQueued (dequeue t a) b.toNat) : TwoLeast t (dequeue (dequeue t a) b) a.toNat b.toNat := by
  obtain ⟨hleaf1, hcount1, hfreq1⟩ := ha.weights
  obtain ⟨hleaf2, hcount2, hfreq2⟩ := hb.weights
  have hrest : ∀ i, i ≠ a.toNat → entry (dequeue t a) i = entry t i := fun i hi => by rw [entry_dequeue, if_neg hi]
  have hne : b.toNat ≠ a.toNat := by
    intro heq
    have hq := hb.queued
    simp [heq, entry_dequeue, Node.queued] at hq
  rw [hrest _ hne] at hfreq2
  exact {
    least := ha
    queued := hrest _ hne ▸ hb.queued
    ne := hne
    least_rest := fun i hi hia hib => by
      have := hb.least i (by rwa [hrest i hia]) hib
      rwa [KeyBefore, hrest i hia, hrest _ hne] at this
    joined := fun i hi => by
      obtain rfl | rfl := hi
      · rw [entry_dequeue, if_neg hne.symm, entry_dequeue, if_pos rfl]
      · rw [entry_dequeue, if_pos rfl, hrest _ hne]
    others := fun i hi => by
      obtain ⟨hia, hib⟩ := not_or.1 hi
      rw [entry_dequeue, if_neg hib, hrest i hia]
    leaves := by omega
    queue := by omega
    freqs := by omega }

theorem twoLeast_extractMin {s : State} (h : 2 ≤ queuedCount s.node) :
    TwoLeast s.node (extractMin (extractMin s).2).2.node (extractMin s).1.toNat
      (extractMin (extractMin s).2).1.toNat := by
  have ha := isLeastQueued_extractMin (s := s) (by omega)
  obtain ⟨-, hcount, -⟩ := ha.weights
  exact twoLeast_of_isLeastQueued ha (isLeastQueued_extractMin (s := (extractMin s).2) (by rw [extractMin_node]; omega))

/-! ## One merge -/

/-- A new Internal node in place of a Free entry. -/
theorem weights_setNode_internal {t : NodeTable} {i : NodeIdx} {n : Node} (hi : i.toNat < 511)
    (hfree : entry t i.toNat = Node.free) (hn : n.kind = .internal) :
    leafCount (setNode t i n) = leafCount t ∧ queuedCount (setNode t i n) = queuedCount t + n.inq.toNat ∧
      queuedFreq (setNode t i n) = queuedFreq t + if n.inq then n.freq.toNat else 0 := by
  have hqueued : n.queued = n.inq := by simp [Node.queued, hn]
  have hleaf := weigh_setNode leafWeight t hi n
  have hcount := weigh_setNode queuedWeight t hi n
  have hfreq := weigh_setNode freqWeight t hi n
  rw [hfree, leafWeight, leafWeight, hn, ← leafCount_eq_weigh, ← leafCount_eq_weigh] at hleaf
  rw [hfree, queuedWeight, queuedWeight, hqueued, ← queuedCount_eq_weigh, ← queuedCount_eq_weigh] at hcount
  rw [hfree, freqWeight, freqWeight, hqueued, ← queuedFreq_eq_weigh, ← queuedFreq_eq_weigh] at hfreq
  exact ⟨hleaf, hcount, hfreq⟩

/-- State t is state s after one merge, of the nodes a and b (R133). -/
structure MergeOf (s t : State) (a b : Nat) : Prop where
  least : IsLeastQueued s.node a
  queued : (entry s.node b).queued = true
  ne : b ≠ a
  least_rest : ∀ i, (entry s.node i).queued = true → i ≠ a → i ≠ b → KeyBefore s.node b i
  parent : entry t.node s.nodeCount.toNat =
    { kind := .internal, inq := true, sym := 0#8, freq := (entry s.node a).freq + (entry s.node b).freq
      left := BitVec.ofNat 9 a, right := BitVec.ofNat 9 b }
  joined : ∀ i, i = a ∨ i = b → entry t.node i = { entry s.node i with inq := false }
  others : ∀ i, i ≠ s.nodeCount.toNat → ¬ (i = a ∨ i = b) → entry t.node i = entry s.node i
  leaves : leafCount t.node = leafCount s.node
  queue : queuedCount t.node + 1 = queuedCount s.node
  /-- R142: the sum does not wrap -/
  parent_freq : ((entry s.node a).freq + (entry s.node b).freq).toNat =
    (entry s.node a).freq.toNat + (entry s.node b).freq.toNat
  freqs : queuedFreq t.node = queuedFreq s.node
  nodeCount : t.nodeCount.toNat = s.nodeCount.toNat + 1
  pqCount : t.pqCount.toNat + 1 = s.pqCount.toNat
  root : t.root = s.root

/-- R133, R139: `Merge` takes out the two least nodes, one after the other, and writes their parent behind all nodes. -/
theorem mergeOf_procMerge {s : State} (h : TreeOk s) (hq : 2 ≤ s.pqCount.toNat) :
    ∃ a b, MergeOf s (procMerge s) a b := by
  obtain ⟨hadd, hk⟩ := h.nodeCount_add (by omega)
  have hnc : s.nodeCount.toNat < 511 := by omega
  have h2 := twoLeast_extractMin (s := s) (h.queue_count ▸ hq)
  have hnode : (procMerge s).node = setNode (extractMin (extractMin s).2).2.node s.nodeCount
      (mergedNode (extractMin (extractMin s).2).2.node (extractMin s).1 (extractMin (extractMin s).2).1) := rfl
  generalize (extractMin (extractMin s).2).2.node = u at *
  generalize (extractMin s).1 = a at *
  generalize (extractMin (extractMin s).2).1 = b at *
  have ha := h.lt_of_queued h2.least.queued
  have hb := h.lt_of_queued h2.queued
  have hmerged : mergedNode u a b =
      { kind := .internal, inq := true, sym := 0#8, freq := (entry s.node a.toNat).freq + (entry s.node b.toNat).freq
        left := a, right := b } := by
    simp only [mergedNode, nodeAt_eq_entry, h2.joined _ (.inl rfl), h2.joined _ (.inr rfl)]
  have hfree : entry u s.nodeCount.toNat = Node.free := by
    rw [h2.others _ (by omega)]
    exact h.unused _ hnc le_rfl
  obtain ⟨hleaf, hcount, hfreq⟩ := weights_setNode_internal (n := mergedNode u a b) hnc hfree rfl
  rw [← hnode] at hleaf hcount hfreq
  rw [hmerged] at hcount hfreq
  have hsum : ((entry s.node a.toNat).freq + (entry s.node b.toNat).freq).toNat =
      (entry s.node a.toNat).freq.toNat + (entry s.node b.toNat).freq.toNat := by
    have hbound := h.queue_freq.trans (Nat.mul_le_mul_right _ hk)
    have hpart := h2.freqs
    exact BitVec.toNat_add_of_lt (by omega)
  have hentry : ∀ i, i ≠ s.nodeCount.toNat → entry (procMerge s).node i = entry u i := fun i hi => by
    rw [hnode, entry_setNode _ hnc, if_neg hi]
  refine ⟨a.toNat, b.toNat, ?_⟩
  exact {
    least := h2.least
    queued := h2.queued
    ne := h2.ne
    least_rest := h2.least_rest
    parent := by rw [hnode, entry_setNode _ hnc, if_pos rfl, hmerged, BitVec.ofNat_toNat, BitVec.ofNat_toNat,
      BitVec.setWidth_eq, BitVec.setWidth_eq]
    joined := fun i hi => by rw [hentry i (by omega), h2.joined i hi]
    others := fun i hi hab => by rw [hentry i hi, h2.others i hab]
    leaves := hleaf.trans h2.leaves
    queue := by rw [hcount, ← h2.queue]; rfl
    parent_freq := hsum
    freqs := by rw [hfreq, ← h2.freqs, if_pos rfl, hsum]
    nodeCount := by rw [procMerge_nodeCount]; bv_omega
    pqCount := by rw [procMerge_pqCount]; bv_omega
    root := rfl }

section
variable {s t : State} {a b : Nat}

theorem MergeOf.sameButQueued (m : MergeOf s t a b) {i : Nat} (hi : i ≠ s.nodeCount.toNat) :
    SameButQueued (entry s.node i) (entry t.node i) := by
  by_cases hab : i = a ∨ i = b
  · rw [SameButQueued, m.joined i hab]
  · rw [SameButQueued, m.others i hi hab]

/-- The children of the new parent are the two nodes it joins. -/
theorem MergeOf.isChild_parent (m : MergeOf s t a b) (c : Nat) :
    IsChild t.node s.nodeCount.toNat c ↔ c = a ∨ c = b := by
  have ha := m.least.lt
  have hb := lt_of_queued m.queued
  rw [IsChild, m.parent]
  simp only [toNat_ofNat_idx ha, toNat_ofNat_idx hb, ofNat_idx_ne_nil hb, ne_eq, not_false_eq_true, true_and]
  rw [eq_comm (a := c), eq_comm (a := c)]

theorem MergeOf.isChild_old (m : MergeOf s t a b) {p : Nat} (hp : p ≠ s.nodeCount.toNat) (c : Nat) :
    IsChild t.node p c ↔ IsChild s.node p c := isChild_congr (m.sameButQueued hp) c

/-- A node that was joined was the child of no node. -/
theorem MergeOf.no_old_parent (m : MergeOf s t a b) (h : TreeOk s) {p c : Nat} (hc : IsChild s.node p c)
    (hab : c = a ∨ c = b) : False := by
  have hq : (entry s.node c).queued = true := by
    obtain rfl | rfl := hab
    · exact m.least.queued
    · exact m.queued
  have hout := h.queued_no_parent p (h.child_lt hc).2 c (h.lt_of_queued hq) hc
  rw [((Node.queued_iff _).1 hq).2] at hout
  exact absurd hout.symm Bool.false_ne_true

/-- R40(c): every node but the joined ones keeps its parent, and these get the new one. -/
theorem MergeOf.isChild_iff (m : MergeOf s t a b) (h : TreeOk s) (p c : Nat) :
    IsChild t.node p c ↔ (IsChild s.node p c ∧ ¬ (c = a ∨ c = b)) ∨ (p = s.nodeCount.toNat ∧ (c = a ∨ c = b)) := by
  by_cases hp : p = s.nodeCount.toNat
  · subst hp
    rw [m.isChild_parent]
    have hno : ¬ IsChild s.node s.nodeCount.toNat c := fun hc => Nat.lt_irrefl _ (h.child_lt hc).2
    simp [hno]
  · rw [m.isChild_old hp]
    simp only [hp, false_and, or_false, iff_self_and]
    exact fun hc hab => m.no_old_parent h hc hab

/-- R40: a merge keeps the tree invariant. -/
theorem MergeOf.treeOk (m : MergeOf s t a b) (h : TreeOk s) : TreeOk t := by
  have hpq : 0 < s.pqCount.toNat := by have := m.pqCount; omega
  obtain ⟨hadd, hk⟩ := h.nodeCount_add hpq
  have hroot : t.root = Config.nil := m.root.trans (h.root_nil hpq)
  have hleaf := h.leafCount_le
  have ha := h.lt_of_queued m.least.queued
  have hb := h.lt_of_queued m.queued
  have hkinds : ∀ i, i < s.nodeCount.toNat → SameButQueued (entry s.node i) (entry t.node i) :=
    fun i hi => m.sameButQueued hi.ne
  have hnew : ∀ i, i < t.nodeCount.toNat → i < s.nodeCount.toNat ∨ i = s.nodeCount.toNat := by
    rw [m.nodeCount]; omega
  exact {
    used := fun i hi => by
      obtain hlt | rfl := hnew i hi
      · rw [hkinds i hlt]; exact h.used i hlt
      · rw [m.parent]; nofun
    unused := fun i hi hle => by
      rw [m.nodeCount] at hle
      rw [m.others i (by omega) (by omega)]
      exact h.unused i hi (by omega)
    leaves_le := by rw [m.leaves]; exact h.leaves_le
    leaves_first := fun i hi => by
      rw [m.leaves]
      obtain hlt | rfl := hnew i hi
      · rw [hkinds i hlt]; exact h.leaves_first i hlt
      · rw [m.parent]
        exact iff_of_false nofun (by omega)
    syms_rise := fun j hj i hi => by
      rw [m.leaves] at hj
      rw [hkinds i (by omega), hkinds j (by omega)]
      exact h.syms_rise j hj i hi
    leaf_fields := fun i hi hl => by
      obtain hlt | rfl := hnew i hi
      · rw [hkinds i hlt] at hl ⊢; exact h.leaf_fields i hlt hl
      · rw [m.parent] at hl; cases hl
    internal_fields := fun i hi hl => by
      obtain hlt | rfl := hnew i hi
      · rw [hkinds i hlt] at hl ⊢; exact h.internal_fields i hlt hl
      · rw [m.parent]
        simp only [toNat_ofNat_idx m.least.lt, toNat_ofNat_idx (lt_of_queued m.queued), ne_eq, ← BitVec.toNat_inj,
          true_and]
        exact ⟨ha, fun _ => ⟨hb, m.ne⟩⟩
    lone_root := fun i hi hl hr => by
      obtain hlt | rfl := hnew i hi
      · rw [hkinds i hlt] at hl hr
        obtain ⟨-, -, h1, -⟩ := h.lone_root i hlt hl hr
        rw [h.root_nil hpq] at h1
        cases h1
      · rw [m.parent] at hr
        exact absurd hr (ofNat_idx_ne_nil (lt_of_queued m.queued))
    one_parent := fun p hp q hq c hc => by
      rw [m.isChild_iff h, m.isChild_iff h]
      rintro ⟨⟨h1, hn1⟩ | ⟨rfl, hab1⟩, ⟨h2, hn2⟩ | ⟨rfl, hab2⟩⟩
      · obtain ⟨hcp, hps⟩ := h.child_lt h1
        exact h.one_parent p hps q (h.child_lt h2).2 c (by omega) ⟨h1, h2⟩
      · exact absurd hab2 hn1
      · exact absurd hab1 hn2
      · rfl
    queued_no_parent := fun p hp c hc hchild => by
      obtain ⟨h1, hn⟩ | ⟨-, hab⟩ := (m.isChild_iff h p c).1 hchild
      · obtain ⟨hcp, hps⟩ := h.child_lt h1
        rw [m.others c (by omega) hn]
        exact h.queued_no_parent p hps c (by omega) h1
      · rw [m.joined c hab]
    freq_sum := fun i hi hl hr => by
      obtain hlt | rfl := hnew i hi
      · rw [hkinds i hlt] at hl hr ⊢
        obtain ⟨-, hleft, hright⟩ := h.internal_fields i hlt hl
        rw [hkinds _ (hleft.trans hlt), hkinds _ ((hright hr).1.trans hlt)]
        exact h.freq_sum i hlt hl hr
      · rw [m.parent]
        simp only [toNat_ofNat_idx m.least.lt, toNat_ofNat_idx (lt_of_queued m.queued), m.joined a (.inl rfl),
          m.joined b (.inr rfl)]
        exact m.parent_freq
    queue_freq := by rw [m.freqs, m.leaves]; exact h.queue_freq
    queue_count := by have := m.pqCount; have := m.queue; have := h.queue_count; omega
    queue_le := by have := m.pqCount; have := h.queue_le; omega
    no_root := fun _ => by rw [m.leaves, m.nodeCount]; have := m.pqCount; omega
    with_root := fun hne => absurd hroot hne
    root_last := fun hne => absurd hroot hne
    parents := fun i hi => by
      obtain hlt | rfl := hnew i hi
      · by_cases hab : i = a ∨ i = b
        · exact .inr (.inr ⟨s.nodeCount.toNat, by rw [m.nodeCount]; omega, (m.isChild_parent i).2 hab⟩)
        · rw [m.others i hlt.ne hab, m.root]
          refine (h.parents i hlt).imp_right (Or.imp_right ?_)
          rintro ⟨p, hp, hc⟩
          exact ⟨p, by rw [m.nodeCount]; omega, (m.isChild_old hp.ne i).2 hc⟩
      · rw [m.parent]
        exact .inl rfl }

end

end Sys2Proof.Machine
end

section
/-! PROOFS. The TreeBuilder's seed, finish and whole build (spec/42_tree_builder.md R131, R136, R138): what each makes of the
tree, and that each keeps the tree invariant (spec/10_state.md R40). -/

namespace Sys2Proof.Machine

/-! ## Values written from index 0 on -/

/-- Values written from index 0 on, and behind them what the table held before. -/
theorem toList_fillFrom_replicate {α : Type} {n : Nat} (v : α) {xs : List α} (h : xs.length ≤ n) :
    (fillFrom (Vector.replicate n v) 0 xs).toList = xs ++ List.replicate (n - xs.length) v := by
  refine List.ext_getElem (by simp; omega) fun i hi _ => ?_
  have hin : i < n := by simpa using hi
  by_cases hx : i < xs.length
  · have hget := getElem?_fillFrom_inside (Vector.replicate n v) 0 xs i hx (by omega)
    rw [Nat.zero_add, Vector.getElem?_eq_getElem hin, Option.some.injEq] at hget
    rw [List.getElem_append_left hx, Vector.getElem_toList, hget]
  · have hget := getElem?_fillFrom_outside (Vector.replicate n v) 0 xs i (by omega)
    rw [Vector.getElem?_eq_getElem hin, Vector.getElem?_eq_getElem hin, Option.some.injEq] at hget
    rw [List.getElem_append_right (by omega), Vector.getElem_toList, hget, List.getElem_replicate,
      Vector.getElem_replicate]

/-! ## Seeding -/

theorem presentSymbols_length_le (h : SymTable Word) : (presentSymbols h).length ≤ 256 :=
  (List.length_filter_le ..).trans_eq allSymbols_length

theorem mem_presentSymbols (h : SymTable Word) (x : Byte) : x ∈ presentSymbols h ↔ getSym h x ≠ 0#32 := by
  rw [presentSymbols, List.mem_filter, bne_iff_ne]
  exact and_iff_right (mem_allSymbols x)

theorem presentSymbols_sorted (h : SymTable Word) : (presentSymbols h).Pairwise (· < ·) := allSymbols_sorted.filter _

section
variable (s : State)

theorem procSeed_counts :
    (procSeed s).nodeCount.toNat = (presentSymbols s.hist).length ∧
      (procSeed s).pqCount.toNat = (presentSymbols s.hist).length ∧ (procSeed s).root = Config.nil := by
  have hle := presentSymbols_length_le s.hist
  have hcount : (BitVec.ofNat 9 (presentSymbols s.hist).length).toNat = (presentSymbols s.hist).length :=
    Nat.mod_eq_of_lt (by omega)
  exact ⟨hcount, hcount, rfl⟩

theorem procSeed_toList : (procSeed s).node.toList =
    (presentSymbols s.hist).map (seedLeaf s.hist) ++ List.replicate (511 - (presentSymbols s.hist).length) Node.free := by
  have hle := presentSymbols_length_le s.hist
  rw [procSeed, toList_fillFrom_replicate _ (by simp; omega), List.length_map]

theorem entry_procSeed_leaf {i : Nat} (hi : i < (presentSymbols s.hist).length) :
    entry (procSeed s).node i = seedLeaf s.hist (presentSymbols s.hist)[i] := by
  have hle := presentSymbols_length_le s.hist
  have hlt : i < 511 := by omega
  simp only [entry_eq_getElem _ hlt, procSeed_toList]
  rw [List.getElem_append_left (by simpa using hi), List.getElem_map]

theorem entry_procSeed_free {i : Nat} (hi : (presentSymbols s.hist).length ≤ i) :
    entry (procSeed s).node i = Node.free := by
  by_cases hlt : i < 511
  · simp only [entry_eq_getElem _ hlt, procSeed_toList]
    rw [List.getElem_append_right (by simpa using hi), List.getElem_replicate]
  · exact entry_of_le _ (by omega)

theorem toNat_freq_seedLeaf (x : Byte) : (seedLeaf s.hist x).freq.toNat = (getSym s.hist x).toNat :=
  (BitVec.toNat_setWidth ..).trans (Nat.mod_eq_of_lt ((getSym s.hist x).isLt.trans (by decide)))

/-- Free entries weigh nothing, so the sums over a seeded table are sums over the present symbols. -/
theorem weigh_procSeed {w : Node → Nat} (hw : w Node.free = 0) :
    weigh w (procSeed s).node = ((presentSymbols s.hist).map fun x => w (seedLeaf s.hist x)).sum := by
  rw [weigh, procSeed_toList, List.map_append, List.sum_append, List.map_replicate, hw, List.sum_replicate,
    Nat.nsmul_eq_mul, Nat.mul_zero, Nat.add_zero, List.map_map]
  rfl

theorem leafCount_procSeed : leafCount (procSeed s).node = (presentSymbols s.hist).length := by
  rw [leafCount_eq_weigh, weigh_procSeed s rfl]
  exact (List.sum_eq_card_nsmul _ 1 (by simp [leafWeight, seedLeaf])).trans (by simp)

theorem queuedCount_procSeed : queuedCount (procSeed s).node = (presentSymbols s.hist).length := by
  rw [queuedCount_eq_weigh, weigh_procSeed s rfl]
  exact (List.sum_eq_card_nsmul _ 1 (by simp [queuedWeight, Node.queued, seedLeaf])).trans (by simp)

/-- R142: the queue holds every counter. -/
theorem queuedFreq_procSeed :
    queuedFreq (procSeed s).node = ((presentSymbols s.hist).map fun x => (getSym s.hist x).toNat).sum := by
  rw [queuedFreq_eq_weigh, weigh_procSeed s rfl]
  exact congrArg List.sum (List.map_congr_left fun x _ => toNat_freq_seedLeaf s x)

theorem procSeed_no_child (p c : Nat) : ¬ IsChild (procSeed s).node p c := by
  rintro ⟨hkind, -⟩
  by_cases hp : p < (presentSymbols s.hist).length
  · rw [entry_procSeed_leaf s hp] at hkind; cases hkind
  · rw [entry_procSeed_free s (by omega)] at hkind; cases hkind

/-- R40: the seeded leaves are a forest. -/
theorem treeOk_procSeed : TreeOk (procSeed s) := by
  obtain ⟨hnc, hpq, hroot⟩ := procSeed_counts s
  have hle := presentSymbols_length_le s.hist
  have hleaf : ∀ i, (hi : i < (procSeed s).nodeCount.toNat) →
      entry (procSeed s).node i = seedLeaf s.hist ((presentSymbols s.hist)[i]'(hnc ▸ hi)) :=
    fun i hi => entry_procSeed_leaf s (hnc ▸ hi)
  have hno_internal : ∀ i, i < (procSeed s).nodeCount.toNat → (entry (procSeed s).node i).kind ≠ .internal := by
    intro i hi hk
    rw [hleaf i hi] at hk
    cases hk
  exact {
    used := fun i hi => by rw [hleaf i hi]; nofun
    unused := fun i _ hi => entry_procSeed_free s (hnc ▸ hi)
    leaves_le := (leafCount_procSeed s).trans_le hle
    leaves_first := fun i hi => by
      rw [hleaf i hi, leafCount_procSeed]
      exact iff_of_true rfl (hnc ▸ hi)
    syms_rise := fun j hj i hij => by
      rw [leafCount_procSeed] at hj
      rw [entry_procSeed_leaf s hj, entry_procSeed_leaf s (hij.trans hj)]
      exact List.pairwise_iff_getElem.1 (presentSymbols_sorted s.hist) i j _ _ hij
    leaf_fields := fun i hi _ => by
      have hmem := (mem_presentSymbols s.hist _).1 (List.getElem_mem (hnc ▸ hi))
      rw [hleaf i hi, toNat_freq_seedLeaf]
      exact ⟨rfl, rfl, Nat.pos_of_ne_zero fun h0 => hmem (BitVec.eq_of_toNat_eq h0), (getSym s.hist _).isLt⟩
    internal_fields := fun i hi hk => absurd hk (hno_internal i hi)
    lone_root := fun i hi hk => absurd hk (hno_internal i hi)
    one_parent := fun p _ q _ c _ h => absurd h.1 (procSeed_no_child s p c)
    queued_no_parent := fun p _ c _ h => absurd h (procSeed_no_child s p c)
    freq_sum := fun i hi hk => absurd hk (hno_internal i hi)
    queue_freq := by
      rw [queuedFreq_procSeed, leafCount_procSeed]
      refine (List.sum_le_card_nsmul _ (2 ^ 32 - 1) ?_).trans_eq (by simp)
      simp only [List.forall_mem_map]
      exact fun x _ => Nat.le_pred_of_lt (getSym s.hist x).isLt
    queue_count := by rw [hpq, queuedCount_procSeed]
    queue_le := hpq.trans_le hle
    no_root := fun _ => by rw [hnc, hpq, leafCount_procSeed]; omega
    with_root := fun h => absurd hroot h
    root_last := fun h => absurd hroot h
    parents := fun i hi => .inl (by rw [hleaf i hi]; rfl) }

end

/-! ## The invariant reads the tree alone -/

theorem TreeOk.congr {s t : State} (h : TreeOk s) (hst : SameTree s t) : TreeOk t := by
  obtain ⟨hnode, hnc, hpq, hroot⟩ := hst
  constructor <;> simp only [hnode, hnc, hpq, hroot]
  exacts [h.used, h.unused, h.leaves_le, h.leaves_first, h.syms_rise, h.leaf_fields, h.internal_fields, h.lone_root,
    h.one_parent, h.queued_no_parent, h.freq_sum, h.queue_freq, h.queue_count, h.queue_le, h.no_root, h.with_root,
    h.root_last, h.parents]

/-- R41, R114: the tree after a reset is the one that `Seed` makes of an empty histogram. -/
theorem treeOk_of_sameTree_reset {t : State} (h : SameTree State.reset t) : TreeOk t := by
  refine (treeOk_procSeed State.reset).congr ?_
  have hpresent : presentSymbols State.reset.hist = [] :=
    List.filter_eq_nil_iff.2 fun x _ => by rw [State.reset, getSym_replicate]; decide
  obtain ⟨hnode, hnc, hpq, hroot⟩ := h
  exact ⟨by rw [hnode, procSeed, hpresent]; rfl, by rw [hnc, procSeed, hpresent]; rfl,
    by rw [hpq, procSeed, hpresent]; rfl, hroot⟩

/-! ## Finishing -/

/-- With one node queued no other is. -/
theorem IsLeastQueued.eq_of_queued {t : NodeTable} {m : NodeIdx} (h : IsLeastQueued t m.toNat)
    (hone : queuedCount t = 1) {i : Nat} (hi : (entry t i).queued = true) : i = m.toNat := by
  by_contra hne
  obtain ⟨-, hcount, -⟩ := h.weights
  have hstill : (entry (dequeue t m) i).queued = true := by rwa [entry_dequeue, if_neg hne]
  have hnone : queuedCount (dequeue t m) = 0 := by omega
  rw [queuedCount, List.countP_eq_zero] at hnone
  refine hnone _ ?_ hstill
  rw [entry_eq_getElem _ (Machine.lt_of_queued hi)]
  exact List.getElem_mem _

/-- R40(c): without a root the last node is queued, for it has no parent. -/
theorem TreeOk.queued_last {s : State} (h : TreeOk s) (hroot : s.root = Config.nil) {i : Nat}
    (hi : i + 1 = s.nodeCount.toNat) : (entry s.node i).queued = true := by
  have hlt := s.nodeCount.isLt
  obtain hq | hr | ⟨p, hp, hc⟩ := h.parents i (by omega)
  · exact (h.queued_iff (by omega)).2 hq
  · rw [hroot, Config.nil, BitVec.toNat_ofNat] at hr
    omega
  · have := (h.child_lt hc).1
    omega

/-- State t is state s after its one queued node r left the queue (R136). -/
structure Finishing (s : State) (r : NodeIdx) : Prop where
  tree : TreeOk s
  root_nil : s.root = Config.nil
  last : r.toNat + 1 = s.nodeCount.toNat
  queued : (entry s.node r.toNat).queued = true
  only : ∀ i, (entry s.node i).queued = true → i = r.toNat
  count : s.nodeCount.toNat + 1 = 2 * leafCount s.node
  freq : (entry s.node r.toNat).freq.toNat = queuedFreq s.node
  leaves : leafCount (dequeue s.node r) = leafCount s.node
  queue : queuedCount (dequeue s.node r) = 0
  freqs : queuedFreq (dequeue s.node r) = 0

theorem finishing_extractMin {s : State} (h : TreeOk s) (hq : s.pqCount = 1#9) : Finishing s (extractMin s).1 := by
  have hone : queuedCount s.node = 1 := by rw [← h.queue_count, hq]; rfl
  have hpos : 0 < s.pqCount.toNat := by rw [hq]; decide
  have hr := isLeastQueued_extractMin (s := s) (by omega)
  obtain ⟨hleaf, hcount, hfreq⟩ := hr.weights
  obtain ⟨hadd, -⟩ := h.nodeCount_add hpos
  rw [hq, BitVec.toNat_ofNat] at hadd
  have hlt := h.lt_of_queued hr.queued
  have hlast := h.queued_last (h.root_nil hpos) (i := s.nodeCount.toNat - 1) (by omega)
  have hzero : queuedFreq (dequeue s.node (extractMin s).1) = 0 := by
    rw [queuedFreq, List.filter_eq_nil_iff.2, List.map_nil, List.sum_nil]
    exact List.countP_eq_zero.1 (by omega : queuedCount (dequeue s.node (extractMin s).1) = 0)
  exact {
    tree := h
    root_nil := h.root_nil hpos
    last := by have := hr.eq_of_queued hone hlast; omega
    queued := hr.queued
    only := fun i hi => hr.eq_of_queued hone hi
    count := hadd
    freq := by omega
    leaves := hleaf
    queue := by omega
    freqs := hzero }

section
variable {s : State} {r : NodeIdx}

/-- R136: the queued node of a lone Leaf is node 0, and there is no other. -/
theorem Finishing.of_leaf (f : Finishing s r) (hk : (entry s.node r.toNat).kind = .leaf) :
    r = 0#9 ∧ s.nodeCount = 1#9 ∧ leafCount s.node = 1 := by
  have hlt := (f.tree.leaves_first r.toNat (by have := f.last; omega)).1 hk
  have hlast := f.last
  have hcount := f.count
  refine ⟨BitVec.eq_of_toNat_eq ?_, BitVec.eq_of_toNat_eq ?_, by omega⟩
  · rw [BitVec.toNat_ofNat]; omega
  · rw [BitVec.toNat_ofNat]; omega

theorem Finishing.kind_cases (f : Finishing s r) :
    (entry s.node r.toNat).kind = .leaf ∨ (entry s.node r.toNat).kind = .internal := by
  have hfree := ((Node.queued_iff _).1 f.queued).1
  cases hk : (entry s.node r.toNat).kind with
  | free => exact absurd hk hfree
  | leaf => exact .inl rfl
  | internal => exact .inr rfl

/-- State t holds the tree of s with the queued node r as its root (R136). -/
structure RootOf (s t : State) (r : NodeIdx) : Prop where
  node : t.node = dequeue s.node r
  nodeCount : t.nodeCount = s.nodeCount
  pqCount : t.pqCount = 0#9
  root : t.root = r

theorem RootOf.isChild (g : RootOf s t r) (p c : Nat) : IsChild t.node p c ↔ IsChild s.node p c := by
  refine isChild_congr ?_ c
  rw [g.node, entry_dequeue]
  split <;> rfl

theorem RootOf.treeOk (g : RootOf s t r) (f : Finishing s r) (hk : (entry s.node r.toNat).kind = .internal) :
    TreeOk t := by
  have h := f.tree
  have hlast := f.last
  have hnil := f.root_nil
  have hsame : ∀ i, SameButQueued (entry s.node i) (entry t.node i) := fun i => by
    rw [g.node, entry_dequeue]
    split <;> rfl
  have hinq : ∀ i, i ≠ r.toNat → entry t.node i = entry s.node i := fun i hi => by
    rw [g.node, entry_dequeue, if_neg hi]
  have hleaves : leafCount t.node = leafCount s.node := by rw [g.node]; exact f.leaves
  have hroot : t.root ≠ Config.nil := by
    rw [g.root]
    exact toNat_ne_nil (by omega : r.toNat < s.nodeCount.toNat) (Nat.le_of_lt_succ s.nodeCount.isLt)
  exact {
    used := fun i hi => by rw [hsame i]; rw [g.nodeCount] at hi; exact h.used i hi
    unused := fun i hi hle => by
      rw [g.nodeCount] at hle
      rw [hinq i (by omega)]
      exact h.unused i hi hle
    leaves_le := by rw [hleaves]; exact h.leaves_le
    leaves_first := fun i hi => by rw [hsame i, hleaves]; rw [g.nodeCount] at hi; exact h.leaves_first i hi
    syms_rise := fun j hj i hi => by
      rw [hleaves] at hj
      rw [hsame i, hsame j]
      exact h.syms_rise j hj i hi
    leaf_fields := fun i hi => by rw [hsame i]; rw [g.nodeCount] at hi; exact h.leaf_fields i hi
    internal_fields := fun i hi => by rw [hsame i]; rw [g.nodeCount] at hi; exact h.internal_fields i hi
    lone_root := fun i hi hl hr => by
      rw [g.nodeCount] at hi
      rw [hsame i] at hl hr
      obtain ⟨-, -, h1, -⟩ := h.lone_root i hi hl hr
      rw [hnil] at h1
      cases h1
    one_parent := by simp only [g.isChild, g.nodeCount]; exact h.one_parent
    queued_no_parent := fun p hp c hc hchild => by
      rw [g.nodeCount] at hp hc
      rw [g.isChild] at hchild
      have hout := h.queued_no_parent p hp c hc hchild
      rw [g.node, entry_dequeue]
      split
      · rfl
      · exact hout
    freq_sum := fun i hi => by
      rw [g.nodeCount] at hi
      rw [hsame i]
      intro hl hr
      rw [hsame (entry s.node i).left.toNat, hsame (entry s.node i).right.toNat]
      exact h.freq_sum i hi hl hr
    queue_freq := by rw [g.node, f.freqs]; exact Nat.zero_le _
    queue_count := by rw [g.pqCount, g.node, f.queue]; rfl
    queue_le := by rw [g.pqCount]; decide
    no_root := fun hn => absurd hn hroot
    with_root := fun _ => .inl (by rw [g.nodeCount, hleaves]; exact f.count)
    root_last := fun _ => by
      rw [g.root, hsame, g.nodeCount]
      exact ⟨f.last, hk, g.pqCount⟩
    parents := fun i hi => by
      rw [g.nodeCount] at hi
      by_cases hir : i = r.toNat
      · exact .inr (.inl (by rw [g.root, hir]))
      · obtain hq | hr | ⟨p, hp, hc⟩ := h.parents i hi
        · exact .inl (by rwa [hinq i hir])
        · rw [hnil, Config.nil, BitVec.toNat_ofNat] at hr
          omega
        · exact .inr (.inr ⟨p, g.nodeCount ▸ hp, (g.isChild p i).2 hc⟩) }

/-- State t holds the synthetic tree over the lone Leaf of s (R136). -/
structure SyntheticOf (s t : State) : Prop where
  leaf : entry t.node 0 = { entry s.node 0 with inq := false }
  root_entry : entry t.node 1 =
    { kind := .internal, inq := false, sym := 0#8, freq := (entry s.node 0).freq, left := 0#9, right := Config.nil }
  others : ∀ i, i ≠ 0 → i ≠ 1 → entry t.node i = entry s.node i
  leaves : leafCount t.node = 1
  queue : queuedCount t.node = 0
  freqs : queuedFreq t.node = 0
  nodeCount : t.nodeCount = 2#9
  pqCount : t.pqCount = 0#9
  root : t.root = 1#9

theorem SyntheticOf.isChild_iff (g : SyntheticOf s t) (f : Finishing s r) (hk : (entry s.node r.toNat).kind = .leaf)
    (p c : Nat) : IsChild t.node p c ↔ p = 1 ∧ c = 0 := by
  obtain ⟨rfl, hnc, hone⟩ := f.of_leaf hk
  constructor
  · rintro ⟨hint, hc⟩
    by_cases h1 : p = 1
    · subst h1
      rw [g.root_entry] at hc
      obtain hl | ⟨hne, -⟩ := hc
      · exact ⟨rfl, hl.symm⟩
      · exact absurd rfl hne
    · exfalso
      by_cases h0 : p = 0
      · subst h0
        rw [g.leaf] at hint
        exact NodeKind.noConfusion (hint.symm.trans hk)
      · rw [g.others p h0 h1] at hint
        have := f.tree.lt_of_kind_ne_free (i := p) (by rw [hint]; nofun)
        rw [hnc, BitVec.toNat_ofNat] at this
        omega
  · rintro ⟨rfl, rfl⟩
    rw [IsChild, g.root_entry]
    exact ⟨rfl, .inl rfl⟩

theorem SyntheticOf.treeOk (g : SyntheticOf s t) (f : Finishing s r) (hk : (entry s.node r.toNat).kind = .leaf) :
    TreeOk t := by
  have h := f.tree
  have hchild := g.isChild_iff f hk
  obtain ⟨rfl, hnc, hone⟩ := f.of_leaf hk
  have hk0 : (entry t.node 0).kind = .leaf := by rw [g.leaf]; exact hk
  have hk1 : (entry t.node 1).kind = .internal := by rw [g.root_entry]
  have hnc2 : t.nodeCount.toNat = 2 := by rw [g.nodeCount]; rfl
  have hcases : ∀ i, i < t.nodeCount.toNat → i = 0 ∨ i = 1 := by omega
  have hroot : t.root ≠ Config.nil := by rw [g.root]; decide
  exact {
    used := fun i hi => by
      obtain rfl | rfl := hcases i hi
      · rw [hk0]; nofun
      · rw [hk1]; nofun
    unused := fun i hi hle => by
      rw [g.others i (by omega) (by omega)]
      exact h.unused i hi (by rw [hnc, BitVec.toNat_ofNat]; omega)
    leaves_le := by rw [g.leaves]; decide
    leaves_first := fun i hi => by
      rw [g.leaves]
      obtain rfl | rfl := hcases i hi
      · exact iff_of_true hk0 (by decide)
      · rw [hk1]; exact iff_of_false nofun (by decide)
    syms_rise := fun j hj i hi => by rw [g.leaves] at hj; omega
    leaf_fields := fun i hi hl => by
      obtain rfl | rfl := hcases i hi
      · rw [g.leaf]
        exact h.leaf_fields 0 (by rw [hnc]; decide) hk
      · rw [hk1] at hl; cases hl
    internal_fields := fun i hi hl => by
      obtain rfl | rfl := hcases i hi
      · rw [hk0] at hl; cases hl
      · rw [g.root_entry]
        exact ⟨rfl, Nat.zero_lt_one, fun hne => absurd rfl hne⟩
    lone_root := fun i hi hl _ => by
      obtain rfl | rfl := hcases i hi
      · rw [hk0] at hl; cases hl
      · refine ⟨rfl, hnc2, by rw [g.root]; rfl, g.leaves, ?_⟩
        rw [g.root_entry]
        exact (congrArg Node.freq g.leaf).symm
    one_parent := fun p _ q _ c _ hpq => by
      rw [hchild, hchild] at hpq
      omega
    queued_no_parent := fun p _ c _ hc => by
      obtain ⟨-, rfl⟩ := (hchild p c).1 hc
      rw [g.leaf]
    freq_sum := fun i hi hl hr => by
      obtain rfl | rfl := hcases i hi
      · rw [hk0] at hl; cases hl
      · rw [g.root_entry] at hr
        exact absurd rfl hr
    queue_freq := by rw [g.freqs]; exact Nat.zero_le _
    queue_count := by rw [g.queue, g.pqCount]; rfl
    queue_le := by rw [g.pqCount]; decide
    no_root := fun hn => absurd hn hroot
    with_root := fun _ => .inr ⟨hnc2, g.leaves⟩
    root_last := fun _ => by
      rw [g.root, hnc2]
      exact ⟨rfl, hk1, g.pqCount⟩
    parents := fun i hi => by
      obtain rfl | rfl := hcases i hi
      · exact .inr (.inr ⟨1, by omega, (hchild 1 0).2 ⟨rfl, rfl⟩⟩)
      · exact .inr (.inl (by rw [g.root]; rfl)) }

end

/-- The node that `Fin` looks at has the kind it had in the queue. -/
theorem kind_extractMin (s : State) :
    (nodeAt (extractMin s).2.node (extractMin s).1).kind = (entry s.node (extractMin s).1.toNat).kind := by
  rw [nodeAt_eq_entry, extractMin_node, entry_dequeue, if_pos rfl]

theorem procFin_of_not_leaf {s : State} (h0 : s.pqCount ≠ 0#9)
    (hk : (entry s.node (extractMin s).1.toNat).kind ≠ .leaf) :
    procFin s = { (extractMin s).2 with root := (extractMin s).1 } := by
  rw [procFin, if_neg h0]
  exact if_neg fun hl => hk ((kind_extractMin s).symm.trans hl)

theorem procFin_of_leaf {s : State} (h0 : s.pqCount ≠ 0#9)
    (hk : (entry s.node (extractMin s).1.toNat).kind = .leaf) :
    procFin s = { (extractMin s).2 with
      node := setNode (dequeue s.node (extractMin s).1) s.nodeCount
        (syntheticRoot (dequeue s.node (extractMin s).1) (extractMin s).1)
      nodeCount := s.nodeCount + 1#9
      root := s.nodeCount } := by
  rw [procFin, if_neg h0]
  exact if_pos ((kind_extractMin s).trans hk)

/-- The synthetic root over Leaf 0, behind it in the table (R136). -/
theorem syntheticOf_procFin {s : State} (f : Finishing s (extractMin s).1) (hq : s.pqCount = 1#9)
    (hk : (entry s.node (extractMin s).1.toNat).kind = .leaf) : SyntheticOf s (procFin s) := by
  obtain ⟨hr, hnc, hone⟩ := f.of_leaf hk
  have hleaf := f.leaves
  have hqueue := f.queue
  have hfreq := f.freqs
  have hfin := procFin_of_leaf (by rw [hq]; decide) hk
  have hpq : (procFin s).pqCount = 0#9 := procFin_pqCount s (by rw [hq]; decide)
  have hnode : (procFin s).node = setNode (dequeue s.node 0#9) 1#9 (syntheticRoot (dequeue s.node 0#9) 0#9) := by
    rw [hfin, hr, hnc]
  rw [hr] at hleaf hqueue hfreq
  have hold : ∀ i, entry (dequeue s.node 0#9) i =
      if i = 0 then { entry s.node i with inq := false } else entry s.node i := entry_dequeue _ _
  have hnew : ∀ i, entry (procFin s).node i =
      if i = 1 then syntheticRoot (dequeue s.node 0#9) 0#9 else entry (dequeue s.node 0#9) i := fun i => by
    rw [hnode]
    exact entry_setNode _ (by decide) _ i
  have hfree : entry (dequeue s.node 0#9) 1 = Node.free :=
    (hold 1).trans (f.tree.unused 1 (by decide) (by rw [hnc]; decide))
  obtain ⟨hleaf', hqueue', hfreq'⟩ := weights_setNode_internal (i := 1#9)
    (n := syntheticRoot (dequeue s.node 0#9) 0#9) (by decide) hfree rfl
  rw [← hnode] at hleaf' hqueue' hfreq'
  exact {
    leaf := (hnew 0).trans (hold 0)
    root_entry := (hnew 1).trans (by
      rw [if_pos rfl, syntheticRoot, nodeAt_eq_entry, BitVec.toNat_zero, hold, if_pos rfl])
    others := fun i hi0 hi1 => by rw [hnew, if_neg hi1, hold, if_neg hi0]
    leaves := by rw [hleaf', hleaf, hone]
    queue := by rw [hqueue', hqueue]; rfl
    freqs := by rw [hfreq', hfreq]; rfl
    nodeCount := by rw [hfin, hnc]; rfl
    pqCount := hpq
    root := by rw [hfin, hnc] }

/-- The three ways `Fin` ends on at most one queued node (R136). -/
theorem procFin_cases {s : State} (h : TreeOk s) (hq : s.pqCount.toNat ≤ 1) :
    (s.pqCount = 0#9 ∧ procFin s = s) ∨
    (s.pqCount = 1#9 ∧ ∃ r, Finishing s r ∧
      (((entry s.node r.toNat).kind = .internal ∧ RootOf s (procFin s) r) ∨
        ((entry s.node r.toNat).kind = .leaf ∧ SyntheticOf s (procFin s)))) := by
  by_cases h0 : s.pqCount = 0#9
  · exact .inl ⟨h0, if_pos h0⟩
  · have h1 : s.pqCount = 1#9 := by bv_omega
    have f := finishing_extractMin h h1
    refine .inr ⟨h1, _, f, f.kind_cases.symm.imp (fun hk => ⟨hk, ?_⟩) fun hk => ⟨hk, syntheticOf_procFin f h1 hk⟩⟩
    have hpq := procFin_pqCount s hq
    rw [procFin_of_not_leaf h0 (by rw [hk]; nofun)] at hpq ⊢
    exact ⟨rfl, rfl, hpq, rfl⟩

/-- R40: `Fin` keeps the tree invariant. -/
theorem treeOk_procFin {s : State} (h : TreeOk s) (hq : s.pqCount.toNat ≤ 1) : TreeOk (procFin s) := by
  obtain ⟨-, heq⟩ | ⟨-, r, f, ⟨hk, g⟩ | ⟨hk, g⟩⟩ := procFin_cases h hq
  · rwa [heq]
  · exact g.treeOk f hk
  · exact g.treeOk f hk

/-! ## The whole build -/

theorem treeOk_procMerge {s : State} (h : TreeOk s) (hq : 2 ≤ s.pqCount.toNat) : TreeOk (procMerge s) := by
  obtain ⟨a, b, m⟩ := mergeOf_procMerge h hq
  exact m.treeOk h

/-- What every merge keeps, and so the merge loop. -/
theorem mergeLoop_induction {P : State → Prop} (hstep : ∀ s, TreeOk s → 2 ≤ s.pqCount.toNat → P s → P (procMerge s))
    (n : Nat) {s : State} (h : TreeOk s) (hP : P s) : TreeOk (mergeLoop n s) ∧ P (mergeLoop n s) := by
  induction n generalizing s with
  | zero => exact ⟨h, hP⟩
  | succ n ih =>
    rw [mergeLoop]
    split
    · next h2 => exact ih (treeOk_procMerge h (BitVec.le_def.1 h2)) (hstep s h (BitVec.le_def.1 h2) hP)
    · exact ⟨h, hP⟩

/-- R138: `Build` makes a tree from every histogram. -/
theorem treeOk_procBuild (s : State) : TreeOk (procBuild s) := by
  have hloop := mergeLoop_induction (P := fun _ => True) (fun _ _ _ _ => trivial) (procSeed s).pqCount.toNat
    (treeOk_procSeed s) trivial
  exact treeOk_procFin hloop.1 (mergeLoop_pqCount _ _ le_rfl)

end Sys2Proof.Machine
end

section
/-! PROOFS. Depths in the tree (spec/43_code_table.md R150, R153, R159): every node of a finished tree has one depth, at most
255; `Visit` writes the leaves' depths; and their Kraft sum is at most 1. -/

namespace Sys2Proof.Machine

/-! ## Distances -/

section
variable {t : NodeTable} {i c j d : Nat}

theorem isChild_left (hk : (entry t i).kind = .internal) : IsChild t i (entry t i).left.toNat := ⟨hk, .inl rfl⟩

theorem isChild_right (hk : (entry t i).kind = .internal) (hr : (entry t i).right ≠ Config.nil) :
    IsChild t i (entry t i).right.toNat := ⟨hk, .inr ⟨hr, rfl⟩⟩

/-- From a node on through one of its children. -/
theorem AtDepth.through (hc : IsChild t i c) (h : AtDepth t c j d) : AtDepth t i j (d + 1) := by
  induction h with
  | root => exact .child .root hc
  | child _ hlast ih => exact .child ih hlast

/-- A node is reached at once or through a child. -/
theorem AtDepth.cases_through (h : AtDepth t i j d) :
    (d = 0 ∧ j = i) ∨ ∃ c e, d = e + 1 ∧ IsChild t i c ∧ AtDepth t c j e := by
  induction h with
  | root => exact .inl ⟨rfl, rfl⟩
  | child _ hlast ih =>
    obtain ⟨rfl, rfl⟩ | ⟨c, e, rfl, hc, he⟩ := ih
    · exact .inr ⟨_, 0, rfl, hlast, .root⟩
    · exact .inr ⟨c, e + 1, rfl, hc, .child he hlast⟩

end

section
variable {s : State} {r i j d : Nat}

/-- A child's index is below its parent's (R40(c)), so a walk from r never goes above it. -/
theorem TreeOk.depth_add_le (h : TreeOk s) (hd : AtDepth s.node r i d) : d + i ≤ r := by
  induction hd with
  | root => omega
  | child _ hc ih =>
    have := (h.child_lt hc).1
    omega

/-- A node has one depth, for it has one parent (R40(c)). -/
theorem TreeOk.depth_unique (h : TreeOk s) {e : Nat} (hd : AtDepth s.node r i d) (he : AtDepth s.node r i e) :
    d = e := by
  induction hd generalizing e with
  | root => have := h.depth_add_le he; omega
  | child hp hc ih =>
    obtain ⟨hcp, hps⟩ := h.child_lt hc
    cases he with
    | root => have := h.depth_add_le hp; omega
    | child hq hc' =>
      obtain rfl := h.one_parent _ hps _ (h.child_lt hc').2 _ (hcp.trans hps) ⟨hc, hc'⟩
      rw [ih hq]

/-- A finished tree's root is its last node, an Internal one (R40(f)). -/
theorem TreeOk.root_lt (h : TreeOk s) (hroot : s.root ≠ Config.nil) :
    s.root.toNat + 1 = s.nodeCount.toNat ∧ (entry s.node s.root.toNat).kind = .internal ∧
      leafCount s.node ≤ s.root.toNat := by
  obtain ⟨hlast, hk, -⟩ := h.root_last hroot
  have hfirst := h.leaves_first s.root.toNat (by omega)
  rw [hk] at hfirst
  exact ⟨hlast, hk, Nat.not_lt.1 fun hlt => NodeKind.noConfusion (hfirst.2 hlt)⟩

/-- R153: "at a distance of at most 255": on the way from the root only Internal nodes are passed. -/
theorem TreeOk.depth_le (h : TreeOk s) (hroot : s.root ≠ Config.nil) (hd : AtDepth s.node s.root.toNat i d) :
    d ≤ 255 := by
  obtain ⟨hlast, -, hleaf⟩ := h.root_lt hroot
  have hpassed : d + leafCount s.node ≤ s.root.toNat + 1 := by
    cases hd with
    | root => omega
    | child hp hc =>
      have hps := (h.child_lt hc).2
      have hfirst := h.leaves_first _ hps
      rw [hc.1] at hfirst
      have hge := Nat.not_lt.1 fun hlt => NodeKind.noConfusion (hfirst.2 hlt)
      have := h.depth_add_le hp
      omega
  have hk := h.leaves_le
  obtain hmany | ⟨htwo, hone⟩ := h.with_root hroot <;> omega

theorem TreeOk.not_queued_of_root (h : TreeOk s) (hroot : s.root ≠ Config.nil) {i : Nat} (hi : i < s.nodeCount.toNat) :
    (entry s.node i).inq = false := by
  obtain ⟨-, -, h0⟩ := h.root_last hroot
  by_contra hq
  have hq' := (h.queued_iff hi).2 (Bool.eq_true_of_not_eq_false hq)
  have hcount := h.queue_count
  rw [h0, BitVec.toNat_zero, eq_comm, queuedCount, List.countP_eq_zero] at hcount
  refine hcount _ ?_ hq'
  rw [entry_eq_getElem _ (Machine.lt_of_queued hq')]
  exact List.getElem_mem _

/-- R40(f): every node is reached from the root, since the way up from child to parent ends only there. -/
theorem TreeOk.exists_depth (h : TreeOk s) (hroot : s.root ≠ Config.nil) (i : Nat) (hi : i < s.nodeCount.toNat) :
    ∃ d, AtDepth s.node s.root.toNat i d := by
  obtain hq | rfl | ⟨p, hp, hc⟩ := h.parents i hi
  · rw [h.not_queued_of_root hroot hi] at hq
    exact absurd hq Bool.false_ne_true
  · exact ⟨0, .root⟩
  · have hlt := (h.child_lt hc).1
    obtain ⟨d, hd⟩ := h.exists_depth hroot p hp
    exact ⟨d + 1, .child hd hc⟩
termination_by s.nodeCount.toNat - i

/-- R40(b): two leaves with one symbol are one leaf. -/
theorem TreeOk.eq_of_sym_eq (h : TreeOk s) (hi : i < s.nodeCount.toNat) (hj : j < s.nodeCount.toNat)
    (hli : (entry s.node i).kind = .leaf) (hlj : (entry s.node j).kind = .leaf)
    (hsym : (entry s.node i).sym = (entry s.node j).sym) : i = j := by
  have hik := (h.leaves_first i hi).1 hli
  have hjk := (h.leaves_first j hj).1 hlj
  obtain hlt | heq | hgt := Nat.lt_trichotomy i j
  · exact absurd hsym (BitVec.ne_of_lt (h.syms_rise j hjk i hlt))
  · exact heq
  · exact absurd hsym.symm (BitVec.ne_of_lt (h.syms_rise i hik j hgt))

end

/-! ## Visit -/

section
variable {t : NodeTable} {i : NodeIdx} {fuel d : Nat} {l : SymTable Byte}

theorem visit_free (hk : (entry t i.toNat).kind = .free) : visit (fuel + 1) t i d l = l := by
  simp only [visit, nodeAt_eq_entry, hk]

theorem visit_leaf (hk : (entry t i.toNat).kind = .leaf) :
    visit (fuel + 1) t i d l = setSym l (entry t i.toNat).sym (BitVec.ofNat 8 d) := by
  simp only [visit, nodeAt_eq_entry, hk]

theorem visit_internal (hk : (entry t i.toNat).kind = .internal) :
    visit (fuel + 1) t i d l =
      if (entry t i.toNat).right = Config.nil then visit fuel t (entry t i.toNat).left (d + 1) l
      else visit fuel t (entry t i.toNat).right (d + 1) (visit fuel t (entry t i.toNat).left (d + 1) l) := by
  simp only [visit, nodeAt_eq_entry, hk] <;> rfl

/-- `Visit` writes no symbol without a leaf under the node. -/
theorem getSym_visit_other {x : Byte}
    (hx : ∀ j e, AtDepth t i.toNat j e → (entry t j).kind = .leaf → (entry t j).sym ≠ x) :
    getSym (visit fuel t i d l) x = getSym l x := by
  induction fuel generalizing i d l with
  | zero => rfl
  | succ fuel ih =>
    cases hk : (entry t i.toNat).kind with
    | free => rw [visit_free hk]
    | leaf => rw [visit_leaf hk, getSym_setSym_other _ _ (hx _ 0 .root hk).symm]
    | internal =>
      have hleft : ∀ l, getSym (visit fuel t (entry t i.toNat).left (d + 1) l) x = getSym l x := fun l =>
        ih fun j e hj => hx j (e + 1) (.through (isChild_left hk) hj)
      rw [visit_internal hk]
      split
      · exact hleft l
      · next hr => rw [ih fun j e hj => hx j (e + 1) (.through (isChild_right hk hr) hj), hleft]

end

section
variable {s : State} {i : NodeIdx} {fuel d : Nat} {l : SymTable Byte}

/-- R150: `Visit(i, d)` writes the depth of every leaf under node i. The right child is visited last; a leaf under it has
one depth, and the other leaves keep what the left child's visit wrote. -/
theorem getSym_visit_leaf (h : TreeOk s) (hfuel : i.toNat < fuel) (hi : i.toNat < s.nodeCount.toNat) {j e : Nat}
    (hj : AtDepth s.node i.toNat j e) (hleaf : (entry s.node j).kind = .leaf) :
    getSym (visit fuel s.node i d l) (entry s.node j).sym = BitVec.ofNat 8 (d + e) := by
  induction fuel generalizing i d l e with
  | zero => exact absurd hfuel (Nat.not_lt_zero _)
  | succ fuel ih =>
    have hjn : j < s.nodeCount.toNat := by have := h.depth_add_le hj; omega
    obtain ⟨rfl, rfl⟩ | ⟨c, e, rfl, hc, hce⟩ := hj.cases_through
    · rw [visit_leaf hleaf, getSym_setSym_same, Nat.add_zero]
    · have hk := hc.1
      have hchild : ∀ c : NodeIdx, IsChild s.node i.toNat c.toNat → ∀ e' l', AtDepth s.node c.toNat j e' →
          getSym (visit fuel s.node c (d + 1) l') (entry s.node j).sym = BitVec.ofNat 8 (d + (e + 1)) := by
        intro c hc e' l' hce'
        have hlt := (h.child_lt hc).1
        rw [ih (by omega) (by omega) hce', ← h.depth_unique (.through hc hce') hj]
        congr 1
        omega
      have hleft := hchild _ (isChild_left hk)
      rw [visit_internal hk]
      split
      · next hr =>
        obtain ⟨-, rfl | ⟨hne, -⟩⟩ := hc
        · exact hleft e l hce
        · exact absurd hr hne
      · next hr =>
        by_cases hunder : ∃ e', AtDepth s.node (entry s.node i.toNat).right.toNat j e'
        · obtain ⟨e', he'⟩ := hunder
          exact hchild _ (isChild_right hk hr) e' _ he'
        · have hright := (h.child_lt (isChild_right hk hr)).1
          rw [getSym_visit_other]
          · obtain ⟨-, rfl | ⟨-, rfl⟩⟩ := hc
            · exact hleft e l hce
            · exact absurd ⟨e, hce⟩ hunder
          · intro j' e' hj' hleaf' hsym
            have hlt := h.depth_add_le hj'
            obtain rfl := h.eq_of_sym_eq (by omega) hjn hleaf' hleaf hsym
            exact hunder ⟨e', hj'⟩

/-! ## The LEN table of a finished tree -/

theorem depthTable_nil (t : NodeTable) : depthTable t Config.nil = Vector.replicate 256 0#8 := if_pos rfl

theorem depthTable_root {root : NodeIdx} (t : NodeTable) (hroot : root ≠ Config.nil) :
    depthTable t root = visit Config.nodeMax t root 0 (Vector.replicate 256 0#8) := if_neg hroot

/-- R150: a leaf's symbol gets its depth. -/
theorem toNat_getSym_depthTable (h : TreeOk s) (hroot : s.root ≠ Config.nil) {j e : Nat}
    (hj : AtDepth s.node s.root.toNat j e) (hleaf : (entry s.node j).kind = .leaf) :
    (getSym (depthTable s.node s.root) (entry s.node j).sym).toNat = e ∧ 1 ≤ e := by
  obtain ⟨hlast, hk, -⟩ := h.root_lt hroot
  have hlt : s.root.toNat < Config.nodeMax := by
    have := s.nodeCount.isLt
    simp only [Config.nodeMax]
    omega
  have hle := h.depth_le hroot hj
  rw [depthTable_root _ hroot, getSym_visit_leaf h hlt (by omega) hj hleaf, Nat.zero_add, BitVec.toNat_ofNat]
  refine ⟨by omega, Nat.pos_of_ne_zero ?_⟩
  rintro rfl
  cases hj
  rw [hk] at hleaf
  cases hleaf

/-- R150: a symbol without a leaf gets 0. -/
theorem getSym_depthTable_other (h : TreeOk s) {x : Byte} (hx : ∀ j, j < s.nodeCount.toNat →
    (entry s.node j).kind = .leaf → (entry s.node j).sym ≠ x) : getSym (depthTable s.node s.root) x = 0#8 := by
  by_cases hroot : s.root = Config.nil
  · rw [hroot, depthTable_nil, getSym_replicate]
  · rw [depthTable_root _ hroot, getSym_visit_other, getSym_replicate]
    intro j e _ hleaf
    exact hx j (h.lt_of_kind_ne_free (by rw [hleaf]; nofun)) hleaf

/-- A symbol with a leaf has a code length. -/
theorem getSym_depthTable_ne_zero (h : TreeOk s) (hroot : s.root ≠ Config.nil) {j : Nat} (hj : j < s.nodeCount.toNat)
    (hleaf : (entry s.node j).kind = .leaf) : getSym (depthTable s.node s.root) (entry s.node j).sym ≠ 0#8 := by
  obtain ⟨d, hd⟩ := h.exists_depth hroot j hj
  obtain ⟨hval, hpos⟩ := toNat_getSym_depthTable h hroot hd hleaf
  intro h0
  rw [h0, BitVec.toNat_zero] at hval
  omega

end

/-! ## The Kraft sum -/

/-- The share of a code length in the Kraft sum (R155): none for length 0. -/
def kraftTerm (v : Byte) : Nat := if v = 0#8 then 0 else 2 ^ (255 - v.toNat)

theorem kraftTerm_le (v : Byte) : kraftTerm v ≤ 2 ^ (255 - v.toNat) := by
  rw [kraftTerm]
  split
  · exact Nat.zero_le _
  · exact le_rfl

theorem tableKraft_eq_sum (l : SymTable Byte) :
    tableKraft l = ∑ x ∈ allSymbols.toFinset, kraftTerm (getSym l x) := by
  rw [tableKraft, codedSymbols, ← List.sum_toFinset _ (allSymbols_nodup.filter _), List.toFinset_filter,
    Finset.sum_filter]
  refine Finset.sum_congr rfl fun x _ => ?_
  by_cases hx : getSym l x = 0#8 <;> simp [hx, kraftTerm]

/-- One new length adds at most its share. -/
theorem tableKraft_setSym_le (l : SymTable Byte) (x v : Byte) :
    tableKraft (setSym l x v) ≤ tableKraft l + 2 ^ (255 - v.toNat) := by
  have hone : ∑ y ∈ allSymbols.toFinset, (if y = x then 2 ^ (255 - v.toNat) else 0) = 2 ^ (255 - v.toNat) := by
    rw [Finset.sum_ite_eq', if_pos (List.mem_toFinset.2 (mem_allSymbols x))]
  rw [tableKraft_eq_sum, tableKraft_eq_sum, ← hone, ← Finset.sum_add_distrib]
  refine Finset.sum_le_sum fun y _ => ?_
  rw [getSym_setSym]
  split
  · exact (kraftTerm_le v).trans (Nat.le_add_left _ _)
  · exact le_rfl

theorem tableKraft_replicate_zero : tableKraft (Vector.replicate 256 0#8) = 0 := by
  rw [tableKraft_eq_sum]
  exact Finset.sum_eq_zero fun x _ => by rw [getSym_replicate, kraftTerm, if_pos rfl]

section
variable {s : State} {i : NodeIdx} {fuel d : Nat} {l : SymTable Byte}

/-- R159: the leaves under a node at depth d share at most 2^-d, for its two children share at most half of it each. -/
theorem tableKraft_visit_le (h : TreeOk s) (hroot : s.root ≠ Config.nil) (hd : AtDepth s.node s.root.toNat i.toNat d) :
    tableKraft (visit fuel s.node i d l) ≤ tableKraft l + 2 ^ (255 - d) := by
  induction fuel generalizing i d l with
  | zero => exact Nat.le_add_right _ _
  | succ fuel ih =>
    cases hk : (entry s.node i.toNat).kind with
    | free => rw [visit_free hk]; exact Nat.le_add_right _ _
    | leaf =>
      have hle := h.depth_le hroot hd
      have hset := tableKraft_setSym_le l (entry s.node i.toNat).sym (BitVec.ofNat 8 d)
      rwa [BitVec.toNat_ofNat, Nat.mod_eq_of_lt (by omega), ← visit_leaf (fuel := fuel) hk] at hset
    | internal =>
      have hchild := AtDepth.child hd (isChild_left hk)
      have hle := h.depth_le hroot hchild
      have hleft := ih hchild (l := l)
      have hhalf : 2 ^ (255 - (d + 1)) + 2 ^ (255 - (d + 1)) = 2 ^ (255 - d) := by
        rw [← Nat.two_mul, ← Nat.pow_succ']
        congr 1
        omega
      have hpos := Nat.two_pow_pos (255 - (d + 1))
      rw [visit_internal hk]
      split
      · omega
      · next hr =>
        have hright := ih (.child hd (isChild_right hk hr)) (l := visit fuel s.node (entry s.node i.toNat).left (d + 1) l)
        omega

end

/-- R159: the depths in any tree that the TreeBuilder makes meet the Kraft inequality. -/
theorem tableKraft_depthTable_le {s : State} (h : TreeOk s) : tableKraft (depthTable s.node s.root) ≤ 2 ^ 255 := by
  by_cases hroot : s.root = Config.nil
  · rw [hroot, depthTable_nil, tableKraft_replicate_zero]
    exact Nat.zero_le _
  · have hvisit := tableKraft_visit_le h hroot .root (fuel := Config.nodeMax) (l := Vector.replicate 256 0#8)
    rwa [tableKraft_replicate_zero, Nat.zero_add, ← depthTable_root _ hroot] at hvisit

end Sys2Proof.Machine
end

section
/-! PROOFS. The canonical code table (spec/43_code_table.md R154 to R157): what `Canon` makes of a LEN table, that it meets
the code-table invariant (spec/10_state.md R40(g)), and the closed form of the codes (R156). -/

namespace Sys2Proof.Machine

/-! ## The Kraft test -/

theorem sortedSymbols_perm (l : SymTable Byte) : (sortedSymbols l).Perm (codedSymbols l) :=
  List.perm_insertionSort _ _

theorem sortedSymbols_length (l : SymTable Byte) : (sortedSymbols l).length = (codedSymbols l).length :=
  (sortedSymbols_perm l).length_eq

theorem sum_blockSize_sortedSymbols (l : SymTable Byte) : ((sortedSymbols l).map (blockSize l)).sum = tableKraft l :=
  ((sortedSymbols_perm l).map _).sum_eq

/-- R155: the Kraft test is on the Kraft sum of the LEN table. -/
theorem kraftOk_sortedSymbols (l : SymTable Byte) :
    kraftOk ((sortedSymbols l).map fun x => (getSym l x).toNat) = decide (tableKraft l ≤ 2 ^ 255) := by
  rw [kraftOk, kraftSum_eq_sum_blockSize, sum_blockSize_sortedSymbols]
  rfl

/-! ## Canon -/

/-- What `Canon` makes of a state whose lengths pass the Kraft test (R154). -/
def canoned (s : State) : State :=
  { s with
    code := canonicalCodes s.len
    order := fillFrom (Vector.replicate 256 0#8) 0 (sortedSymbols s.len)
    codeNsym := BitVec.ofNat 9 (sortedSymbols s.len).length
    status := { s.status with tblv := true } }

theorem procCanon_ok {s : State} (h : tableKraft s.len ≤ 2 ^ 255) : procCanon s = .ok () (canoned s) := by
  obtain ⟨-, heq⟩ | ⟨hfail, -⟩ := procCanon_cases s
  · exact heq
  · rw [kraftOk_sortedSymbols, decide_eq_false_iff_not] at hfail
    exact absurd h hfail

theorem procCanon_fail {s : State} (h : 2 ^ 255 < tableKraft s.len) :
    procCanon s = .fail .inconsistentCodeLengths (s.setTblv false) := by
  obtain ⟨hok, -⟩ | ⟨-, heq⟩ := procCanon_cases s
  · rw [kraftOk_sortedSymbols, decide_eq_true_iff] at hok
    omega
  · exact heq

theorem canoned_codeNsym (s : State) : (canoned s).codeNsym.toNat = (sortedSymbols s.len).length := by
  have hle := sortedSymbols_length_le s.len
  exact Nat.mod_eq_of_lt (by omega)

theorem canoned_order (s : State) :
    (canoned s).order.toList = sortedSymbols s.len ++ List.replicate (256 - (sortedSymbols s.len).length) 0#8 :=
  toList_fillFrom_replicate _ (sortedSymbols_length_le s.len)

theorem getSym_canonicalCodes_of_zero {l : SymTable Byte} {x : Byte} (hx : getSym l x = 0#8) :
    getSym (canonicalCodes l) x = 0#255 := by
  have hnot : x ∉ sortedSymbols l := fun hmem => (mem_sortedSymbols l x).1 hmem hx
  rw [canonicalCodes]
  cases hxs : sortedSymbols l with
  | nil => exact getSym_replicate _ x
  | cons y ys =>
    rw [hxs, List.mem_cons, not_or] at hnot
    rw [assignCodes, getSym_assignNext_of_notMem hnot.2, getSym_setSym_other _ _ hnot.1, getSym_replicate]

/-- R40(g): lengths that pass the Kraft test get a valid code table. -/
theorem tableOk_canoned {s : State} (h : tableKraft s.len ≤ 2 ^ 255) : TableOk (canoned s) := by
  have htree := codeTree_assignCodes (l := s.len) (by rw [kraftOk_sortedSymbols]; exact decide_eq_true h)
    (Vector.replicate 256 0#255)
  exact {
    fits := fun _ => htree.fits
    absent := fun _ _ => getSym_canonicalCodes_of_zero
    kraft := fun _ => h
    prefix_free := fun _ => htree.prefix_free
    nsym := fun _ => (canoned_codeNsym s).trans (sortedSymbols_length s.len)
    order := fun _ => ⟨sortedSymbols s.len, sortedSymbols_pairwise_keyLt s.len, mem_sortedSymbols s.len,
      canoned_order s⟩ }

/-! ## The invariant reads the code table and TBLV alone -/

theorem tableOk_of_tblv_false {s : State} (h : s.status.tblv = false) : TableOk s := by
  constructor <;> exact fun htrue => absurd (h.symm.trans htrue) Bool.false_ne_true

theorem TableOk.congr {s t : State} (h : TableOk s) (htblv : t.status.tblv = s.status.tblv) (hlen : t.len = s.len)
    (hcodes : SameCodes s t) : TableOk t := by
  obtain ⟨hcode, horder, hnsym⟩ := hcodes
  constructor <;> simp only [htblv, hlen, hcode, horder, hnsym]
  exacts [h.fits, h.absent, h.kraft, h.prefix_free, h.nsym, h.order]

/-! ## The closed form -/

section
variable {l : SymTable Byte} {c : SymTable Code} {x : Byte}

/-- A block starts where the blocks before it end. -/
theorem Consecutive.blockStart_eq {base : Nat} {before after : List Byte}
    (h : Consecutive l c base (before ++ x :: after)) :
    blockStart l c x = base + (before.map (blockSize l)).sum := by
  induction before generalizing base with
  | nil => exact h.1
  | cons y before ih => rw [ih h.2, List.map_cons, List.sum_cons, Nat.add_assoc]

theorem KeyLt.asymm {a b : Byte} (h : KeyLt l a b) : ¬ KeyLt l b a := by
  simp only [KeyLt, BitVec.lt_def, ← BitVec.toNat_inj] at *
  omega

/-- In a list in key order, the symbols with a smaller key are those that come earlier. -/
theorem filter_keyLt_eq {before after : List Byte} (h : (before ++ x :: after).Pairwise (KeyLt l)) :
    (before ++ x :: after).filter (fun y => decide (KeyLt l y x)) = before := by
  obtain ⟨-, hafter, hcross⟩ := List.pairwise_append.1 h
  have hkeep : before.filter (fun y => decide (KeyLt l y x)) = before :=
    List.filter_eq_self.2 fun y hy => decide_eq_true (hcross y hy x List.mem_cons_self)
  have hdrop : (x :: after).filter (fun y => decide (KeyLt l y x)) = [] := by
    refine List.filter_eq_nil_iff.2 fun y hy => ?_
    rw [decide_eq_true_iff]
    obtain rfl | hmem := List.mem_cons.1 hy
    · exact fun hlt => hlt.ne rfl
    · exact ((List.pairwise_cons.1 hafter).1 y hmem).asymm
  rw [List.filter_append, hkeep, hdrop, List.append_nil]

/-- R156(a): a canonical code counts, in steps of its own length, the blocks of the symbols before it. -/
theorem toNat_getSym_canonicalCodes (hkraft : tableKraft l ≤ 2 ^ 255) (hx : getSym l x ≠ 0#8) :
    (getSym (canonicalCodes l) x).toNat =
      (((codedSymbols l).filter fun y => decide (KeyLt l y x)).map fun y =>
        2 ^ ((getSym l x).toNat - (getSym l y).toNat)).sum := by
  have hkeys := sortedSymbols_pairwise_keyLt l
  have hblocks := consecutive_assignCodes hkeys ((sum_blockSize_sortedSymbols l).trans_le hkraft)
    (Vector.replicate 256 0#255)
  rw [← (((sortedSymbols_perm l).filter _).map _).sum_eq, canonicalCodes]
  obtain ⟨before, after, hsplit⟩ := List.append_of_mem ((mem_sortedSymbols l x).2 hx)
  rw [hsplit] at hkeys hblocks ⊢
  rw [filter_keyLt_eq hkeys]
  refine Nat.eq_of_mul_eq_mul_right (blockSize_pos (l := l) (x := x)) ?_
  calc (getSym (assignCodes l (before ++ x :: after) (Vector.replicate 256 0#255)) x).toNat * blockSize l x
      = (before.map (blockSize l)).sum := by rw [← blockStart, hblocks.blockStart_eq, Nat.zero_add]
    _ = (before.map fun y => 2 ^ ((getSym l x).toNat - (getSym l y).toNat) * blockSize l x).sum := by
        refine congrArg List.sum (List.map_congr_left fun y hy => ?_)
        have hlt := (List.pairwise_append.1 hkeys).2.2 y hy x List.mem_cons_self
        exact (pow_sub_mul_blockSize hlt.len_le).symm
    _ = (before.map fun y => 2 ^ ((getSym l x).toNat - (getSym l y).toNat)).sum * blockSize l x :=
        List.sum_map_mul_right _ _ _

end

end Sys2Proof.Machine
end

section
/-! PROOFS. What `Build` keeps from the histogram to the finished tree (spec/42_tree_builder.md R138, R141, R142): the leaves,
one for each present symbol, and the sum of the counters; and so the symbols that get a code. -/

namespace Sys2Proof.Machine

/-! ## Leaves -/

/-- The table has a Leaf of symbol x. -/
def HasLeaf (t : NodeTable) (x : Byte) : Prop := ∃ i, (entry t i).kind = .leaf ∧ (entry t i).sym = x

/-- What has the same leaves entry by entry has a Leaf of the same symbols. -/
theorem hasLeaf_congr {t u : NodeTable} {x : Byte}
    (h : ∀ i, ((entry u i).kind = .leaf ∧ (entry u i).sym = x) ↔ ((entry t i).kind = .leaf ∧ (entry t i).sym = x)) :
    HasLeaf u x ↔ HasLeaf t x :=
  exists_congr h

theorem hasLeaf_procSeed (s : State) (x : Byte) : HasLeaf (procSeed s).node x ↔ getSym s.hist x ≠ 0#32 := by
  rw [← mem_presentSymbols]
  constructor
  · rintro ⟨i, hk, rfl⟩
    by_cases hi : i < (presentSymbols s.hist).length
    · rw [entry_procSeed_leaf s hi]
      exact List.getElem_mem hi
    · rw [entry_procSeed_free s (by omega)] at hk
      cases hk
  · intro hx
    obtain ⟨i, hi, rfl⟩ := List.getElem_of_mem hx
    exact ⟨i, by rw [entry_procSeed_leaf s hi]; exact ⟨rfl, rfl⟩⟩

section
variable {s t : State} {r : NodeIdx} {x : Byte}

/-- A new Internal node adds no leaf where there was none. -/
theorem MergeOf.hasLeaf_iff {a b : Nat} (m : MergeOf s t a b) (h : TreeOk s) : HasLeaf t.node x ↔ HasLeaf s.node x := by
  refine hasLeaf_congr fun i => ?_
  by_cases hi : i = s.nodeCount.toNat
  · subst hi
    have hno : (entry s.node s.nodeCount.toNat).kind ≠ .leaf := fun hk =>
      Nat.lt_irrefl _ (h.lt_of_kind_ne_free (by rw [hk]; nofun))
    rw [m.parent]
    exact iff_of_false (fun hl => NodeKind.noConfusion hl.1) fun hl => hno hl.1
  · rw [m.sameButQueued hi]

theorem RootOf.hasLeaf_iff (g : RootOf s t r) : HasLeaf t.node x ↔ HasLeaf s.node x := by
  refine hasLeaf_congr fun i => ?_
  rw [g.node, entry_dequeue]
  split <;> rfl

theorem SyntheticOf.hasLeaf_iff (g : SyntheticOf s t) (f : Finishing s r) (hk : (entry s.node r.toNat).kind = .leaf) :
    HasLeaf t.node x ↔ HasLeaf s.node x := by
  obtain ⟨-, hnc, -⟩ := f.of_leaf hk
  refine hasLeaf_congr fun i => ?_
  by_cases h0 : i = 0
  · rw [h0, g.leaf]
  · by_cases h1 : i = 1
    · rw [h1, g.root_entry, f.tree.unused 1 (by decide) (by rw [hnc]; decide)]
      exact iff_of_false (fun hl => NodeKind.noConfusion hl.1) fun hl => NodeKind.noConfusion hl.1
    · rw [g.others i h0 h1]

end

/-! ## From the histogram to the tree -/

/-- What holds of a tree under construction from the histogram h, between two merges (R141, R142). -/
structure Building (h : SymTable Word) (s : State) : Prop where
  leaves : leafCount s.node = (presentSymbols h).length
  freqs : queuedFreq s.node = ((presentSymbols h).map fun x => (getSym h x).toNat).sum
  syms : ∀ x, HasLeaf s.node x ↔ getSym h x ≠ 0#32
  root : s.root = Config.nil
  queue : (presentSymbols h).length ≠ 0 → s.pqCount.toNat ≠ 0

theorem building_procSeed (s : State) : Building s.hist (procSeed s) where
  leaves := leafCount_procSeed s
  freqs := queuedFreq_procSeed s
  syms := hasLeaf_procSeed s
  root := rfl
  queue := by rw [(procSeed_counts s).2.1]; exact id

theorem Building.procMerge {h : SymTable Word} {s : State} (b : Building h s) (htree : TreeOk s)
    (hq : 2 ≤ s.pqCount.toNat) : Building h (procMerge s) := by
  obtain ⟨_, _, m⟩ := mergeOf_procMerge htree hq
  exact {
    leaves := m.leaves.trans b.leaves
    freqs := m.freqs.trans b.freqs
    syms := fun x => (m.hasLeaf_iff htree).trans (b.syms x)
    root := m.root.trans b.root
    queue := fun _ => by have := m.pqCount; omega }

/-- R138: the merges of `Build` leave at most one node in the queue. -/
theorem building_mergeLoop (s : State) :
    TreeOk (mergeLoop (procSeed s).pqCount.toNat (procSeed s)) ∧
      Building s.hist (mergeLoop (procSeed s).pqCount.toNat (procSeed s)) ∧
      (mergeLoop (procSeed s).pqCount.toNat (procSeed s)).pqCount.toNat ≤ 1 := by
  obtain ⟨htree, hbuild⟩ := mergeLoop_induction (P := Building s.hist) (fun _ ht hq hb => hb.procMerge ht hq)
    (procSeed s).pqCount.toNat (treeOk_procSeed s) (building_procSeed s)
  exact ⟨htree, hbuild, mergeLoop_pqCount _ _ le_rfl⟩

/-- A forest with nothing queued and no root is empty. -/
theorem TreeOk.nodeCount_zero {s : State} (h : TreeOk s) (hroot : s.root = Config.nil) (hq : s.pqCount = 0#9) :
    s.nodeCount.toNat = 0 := by
  by_contra hne
  have hlast := h.queued_last hroot (i := s.nodeCount.toNat - 1) (by omega)
  have hcount := h.queue_count
  rw [hq, BitVec.toNat_zero, eq_comm, queuedCount, List.countP_eq_zero] at hcount
  refine hcount _ ?_ hlast
  rw [entry_eq_getElem _ (Machine.lt_of_queued hlast)]
  exact List.getElem_mem _

/-- R138, R142: what `Build` makes of k present symbols: nothing, the synthetic tree, or a tree of 2k - 1 nodes whose root
holds the sum of the counters. -/
theorem procBuild_cases (s : State) :
    ((presentSymbols s.hist).length = 0 ∧ (procBuild s).nodeCount = 0#9 ∧ (procBuild s).root = Config.nil) ∨
    ((presentSymbols s.hist).length = 1 ∧ (procBuild s).nodeCount = 2#9 ∧ (procBuild s).root = 1#9 ∧
      (entry (procBuild s).node 1).kind = .internal ∧ (entry (procBuild s).node 1).left = 0#9 ∧
      (entry (procBuild s).node 0).kind = .leaf) ∨
    (2 ≤ (presentSymbols s.hist).length ∧
      (procBuild s).nodeCount.toNat = 2 * (presentSymbols s.hist).length - 1 ∧
      (procBuild s).root.toNat = 2 * (presentSymbols s.hist).length - 2 ∧
      (entry (procBuild s).node (procBuild s).root.toNat).freq.toNat =
        ((presentSymbols s.hist).map fun x => (getSym s.hist x).toNat).sum) := by
  obtain ⟨htree, hb, hq⟩ := building_mergeLoop s
  rw [show procBuild s = procFin (mergeLoop (procSeed s).pqCount.toNat (procSeed s)) from rfl]
  generalize mergeLoop (procSeed s).pqCount.toNat (procSeed s) = u at *
  have hleaves := hb.leaves
  obtain ⟨h0, heq⟩ | ⟨h1, r, f, ⟨hk, g⟩ | ⟨hk, g⟩⟩ := procFin_cases htree hq
  · have hnone : (presentSymbols s.hist).length = 0 := by
      by_contra hne
      exact hb.queue hne (by rw [h0]; rfl)
    rw [heq]
    exact .inl ⟨hnone, BitVec.eq_of_toNat_eq (htree.nodeCount_zero hb.root h0), hb.root⟩
  · have hlast := f.last
    have hcount := f.count
    have hleaf := htree.leaves_first r.toNat (by omega)
    rw [hk] at hleaf
    have hge := Nat.not_lt.1 fun hlt => NodeKind.noConfusion (hleaf.2 hlt)
    refine .inr (.inr ⟨by omega, by rw [g.nodeCount]; omega, by rw [g.root]; omega, ?_⟩)
    rw [g.root, g.node, entry_dequeue, if_pos rfl, ← hb.freqs]
    exact f.freq
  · obtain ⟨hr, -, hone⟩ := f.of_leaf hk
    rw [hr] at hk
    refine .inr (.inl ⟨by omega, g.nodeCount, g.root, ?_, ?_, ?_⟩)
    · rw [g.root_entry]
    · rw [g.root_entry]
    · rw [g.leaf]; exact hk

/-- R131, R138: the leaves that `Build` makes are those of the present symbols. -/
theorem hasLeaf_procBuild (s : State) (x : Byte) : HasLeaf (procBuild s).node x ↔ getSym s.hist x ≠ 0#32 := by
  obtain ⟨htree, hb, hq⟩ := building_mergeLoop s
  rw [← hb.syms x, show procBuild s = procFin (mergeLoop (procSeed s).pqCount.toNat (procSeed s)) from rfl]
  obtain ⟨-, heq⟩ | ⟨-, r, f, ⟨-, g⟩ | ⟨hk, g⟩⟩ := procFin_cases htree hq
  · rw [heq]
  · exact g.hasLeaf_iff
  · exact g.hasLeaf_iff f hk

/-- R150, R190: the symbols with a code length are the present ones. -/
theorem getSym_depthTable_procBuild (s : State) (x : Byte) :
    getSym (depthTable (procBuild s).node (procBuild s).root) x ≠ 0#8 ↔ getSym s.hist x ≠ 0#32 := by
  have htree := treeOk_procBuild s
  rw [← hasLeaf_procBuild]
  constructor
  · intro hx
    by_contra hno
    exact hx (getSym_depthTable_other htree fun j _ hk hsym => hno ⟨j, hk, hsym⟩)
  · rintro ⟨j, hk, rfl⟩
    have hj := htree.lt_of_kind_ne_free (i := j) (by rw [hk]; nofun)
    refine getSym_depthTable_ne_zero htree (fun hroot => ?_) hj hk
    have := htree.nodeCount_zero hroot (procBuild_pqCount s)
    omega

/-- R192(b): a lone present symbol gets code length 1. -/
theorem getSym_depthTable_lone {s : State} {x : Byte} (hone : (presentSymbols s.hist).length = 1)
    (hx : getSym s.hist x ≠ 0#32) : getSym (depthTable (procBuild s).node (procBuild s).root) x = 1#8 := by
  have htree := treeOk_procBuild s
  obtain ⟨h0, -⟩ | ⟨-, hnc, hroot, hk1, hleft, hk0⟩ | ⟨h2, -⟩ := procBuild_cases s
  · omega
  · obtain ⟨j, hk, rfl⟩ := (hasLeaf_procBuild s x).2 hx
    have hj := htree.lt_of_kind_ne_free (i := j) (by rw [hk]; nofun)
    rw [hnc, BitVec.toNat_ofNat] at hj
    have hj0 : j = 0 := by
      by_contra hne
      rw [show j = 1 by omega, hk1] at hk
      cases hk
    subst hj0
    have hchild : AtDepth (procBuild s).node (procBuild s).root.toNat 0 1 := by
      rw [hroot]
      exact .child .root ⟨hk1, .inl (congrArg BitVec.toNat hleft)⟩
    obtain ⟨hval, -⟩ := toNat_getSym_depthTable htree (by rw [hroot]; decide) hchild hk0
    exact BitVec.eq_of_toNat_eq hval
  · omega

/-- Absent symbols add nothing to the sum of the counters. -/
theorem sum_presentSymbols (h : SymTable Word) :
    ((presentSymbols h).map fun x => (getSym h x).toNat).sum = (allSymbols.map fun x => (getSym h x).toNat).sum := by
  rw [presentSymbols, ← List.sum_toFinset _ (allSymbols_nodup.filter _), ← List.sum_toFinset _ allSymbols_nodup,
    List.toFinset_filter]
  refine Finset.sum_filter_of_ne fun x _ hx => bne_iff_ne.2 fun h0 => hx ?_
  rw [h0]
  rfl

end Sys2Proof.Machine
end

section
/-! PROOFS. What a command and a step can do, said once: every command is the body of its row and then the end of a command
(spec/40_control.md R110), and a list of all the ways the bodies end, with what holds in each. -/

namespace Sys2Proof.Machine

/-! ## Bodies -/

/-- The body of a command: what it does before its outcome goes to STATUS (R110). -/
def body : Instr → State → Proc Unit
  | .nop => fun s => .ok () s
  | .srst => fun s => .ok () (procSrst s)
  | .hist => cmdHist
  | .tseed => fun s => .ok () (procSeed s)
  | .tmerge => cmdTmerge
  | .tfin => cmdTfin
  | .tbuild => fun s => .ok () (procBuild s)
  | .clen => fun s => .ok () (procDepth s)
  | .ccanon => procCanon
  | .cgen => fun s => procCanon (procDepth s)
  | .pack => cmdPack
  | .unpack => cmdUnpack
  | .encode => cmdEncode
  | .decode => cmdDecode

/-- R110: a command runs its body and reports how it ended. -/
theorem exec_eq (i : Instr) (s : State) : exec i s = .next (complete i s (body i s)) := by
  cases i <;> rfl

/-- The state in which a procedure ended. -/
def Proc.state {α : Type} : Proc α → State
  | .ok _ s => s
  | .fail _ s => s

/-! ## PACK and UNPACK -/

section
variable {s : State}

theorem cmdPack_no_table (h : s.status.tblv = false) : cmdPack s = .fail .badState s := by
  simp only [cmdPack, h, Bool.false_eq_true, if_false]

theorem cmdPack_input (h : s.status.tblv = true) (hin : ¬ s.srcOff.toNat + s.srcLen.toNat ≤ s.ibufBytes.toNat) :
    cmdPack s = .fail .bufferOverflow s := by
  simp only [cmdPack, h, State.inputFits, hin, decide_false, Bool.false_eq_true, if_true, if_false]

/-- The body of PACK once the table and the input range have passed (R170). -/
theorem cmdPack_of_input (h : s.status.tblv = true) (hin : s.srcOff.toNat + s.srcLen.toNat ≤ s.ibufBytes.toNat) :
    cmdPack s = (procPack s.srcOff.toNat s.srcLen.toNat s.dstOff.toNat s).andThen fun n t =>
      .ok () { t with dstLen := BitVec.ofNat 32 n } := by
  simp only [cmdPack, h, State.inputFits, hin, decide_true, if_true]

theorem cmdPack_uncoded (h : s.status.tblv = true) (hin : s.srcOff.toNat + s.srcLen.toNat ≤ s.ibufBytes.toNat)
    (hx : ∃ x ∈ s.source, getSym s.len x = 0#8) : cmdPack s = .fail .badState s := by
  rw [cmdPack_of_input h hin]
  obtain ⟨-, heq⟩ | ⟨hcoded, -⟩ := procPack_cases s.srcOff.toNat s.srcLen.toNat s.dstOff.toNat s
  · rw [heq, Proc.andThen_fail]
  · obtain ⟨x, hmem, h0⟩ := hx
    exact absurd h0 (hcoded x hmem)

theorem cmdPack_output (h : s.status.tblv = true) (hin : s.srcOff.toNat + s.srcLen.toNat ≤ s.ibufBytes.toNat)
    (hx : ∀ x ∈ s.source, getSym s.len x ≠ 0#8)
    (hout : s.obufBytes.toNat < s.dstOff.toNat + bytesFor (totalBits s.len s.source)) :
    cmdPack s = .fail .bufferOverflow s := by
  rw [cmdPack_of_input h hin]
  obtain ⟨⟨x, hmem, h0⟩, -⟩ | ⟨-, ⟨-, heq⟩ | ⟨hfits, -⟩⟩ :=
    procPack_cases s.srcOff.toNat s.srcLen.toNat s.dstOff.toNat s
  · exact absurd h0 (hx x hmem)
  · rw [heq, Proc.andThen_fail]
  · exact absurd hout hfits.not_gt

theorem PackFits.cmdPack_eq (h : PackFits s) : cmdPack s = .ok () (packed s) := by
  rw [cmdPack_of_input h.tblv h.input]
  obtain ⟨⟨x, hmem, h0⟩, -⟩ | ⟨-, ⟨hout, -⟩ | ⟨-, heq⟩⟩ :=
    procPack_cases s.srcOff.toNat s.srcLen.toNat s.dstOff.toNat s
  · exact absurd h0 (h.coded x hmem)
  · exact absurd hout h.output.not_gt
  · rw [heq]
    rfl

theorem cmdUnpack_no_table (h : s.status.tblv = false) : cmdUnpack s = .fail .badState s := by
  simp only [cmdUnpack, h, Bool.false_eq_true, if_false]

theorem cmdUnpack_input (h : s.status.tblv = true) (hin : ¬ s.srcOff.toNat + s.srcLen.toNat ≤ s.ibufBytes.toNat) :
    cmdUnpack s = .fail .bufferOverflow s := by
  simp only [cmdUnpack, h, State.inputFits, hin, decide_false, Bool.false_eq_true, if_true, if_false]

theorem cmdUnpack_output (h : s.status.tblv = true) (hin : s.srcOff.toNat + s.srcLen.toNat ≤ s.ibufBytes.toNat)
    (hout : ¬ s.dstOff.toNat + s.symN.toNat ≤ s.obufBytes.toNat) : cmdUnpack s = .fail .bufferOverflow s := by
  simp only [cmdUnpack, h, State.inputFits, State.outputFits, hin, hout, decide_true, decide_false, Bool.false_eq_true,
    if_true, if_false]

end

/-- A payload that does not read is truncated or leaves the code tree (R174). -/
theorem readSymbols_error {l : SymTable Byte} {c : SymTable Code} {n : Nat} {bits : List Bool} {k : FailKind}
    (h : readSymbols l c n bits = .error k) : k = .truncatedPayload ∨ k = .unassignedCode := by
  induction n generalizing bits with
  | zero => cases h
  | succ n ih =>
    rw [readSymbols] at h
    obtain hr | hr | ⟨x, rest, hr, -⟩ := readSymbol_cases l c bits 0 0
    · rw [hr] at h
      cases h
      exact .inl rfl
    · rw [hr] at h
      cases h
      exact .inr rfl
    · rw [hr] at h
      cases hrest : readSymbols l c n rest with
      | error k' =>
        simp only [hrest] at h
        cases h
        exact ih hrest
      | ok xs => simp [hrest] at h

/-! ## ENCODE -/

section
variable (s : State)

/-- What ENCODE's table procedures make of a state (R190): they never fail, since the lengths come from a built tree
(R159). -/
@[irreducible] def encodeTabled : State := canoned (procDepth (procBuild (procHist s.srcOff.toNat s.srcLen.toNat s)))

theorem tableKraft_procDepth_procBuild : tableKraft (procDepth (procBuild s)).len ≤ 2 ^ 255 := by
  rw [procDepth_len]
  exact tableKraft_depthTable_le (treeOk_procBuild s)

theorem encodeTables_eq : encodeTables s.srcOff.toNat s.srcLen.toNat s = .ok () (encodeTabled s) := by
  rw [encodeTables, procCanon_ok (tableKraft_procDepth_procBuild _), encodeTabled]

theorem encodeTabled_len : (encodeTabled s).len =
    depthTable (procBuild (procHist s.srcOff.toNat s.srcLen.toNat s)).node
      (procBuild (procHist s.srcOff.toNat s.srcLen.toNat s)).root :=
  encodeTables_len (encodeTables_eq s)

theorem getSym_encodeTabled_len (x : Byte) : getSym (encodeTabled s).len x ≠ 0#8 ↔ x ∈ s.source := by
  have hcount := toNat_getSym_procHist s.srcOff.toNat s.srcLen.isLt s x
  rw [← List.count_pos_iff, State.source, ← hcount, Nat.pos_iff_ne_zero, encodeTabled_len,
    getSym_depthTable_procBuild, Ne, Ne, ← BitVec.toNat_inj, BitVec.toNat_zero]

theorem encodeTabled_ibufRange (off len : Nat) : (encodeTabled s).ibufRange off len = s.ibufRange off len :=
  encodeTables_ibufRange (encodeTables_eq s) off len

theorem State.ibufRange_writeObuf (dst : Nat) (bs : List Byte) (off len : Nat) :
    (s.writeObuf dst bs).ibufRange off len = s.ibufRange off len := rfl

/-- R190: check 2 is the only way ENCODE fails once its input lies in IBUF, for every input byte has a code. -/
theorem encodeOutput_encodeTabled :
    (s.obufBytes.toNat < s.dstOff.toNat + artifactSize (encodeTabled s) ∧
      encodeOutput s.srcOff.toNat s.srcLen.toNat s.dstOff.toNat (encodeTabled s) =
        .fail .bufferOverflow (encodeTabled s)) ∨
    (s.dstOff.toNat + artifactSize (encodeTabled s) ≤ s.obufBytes.toNat ∧
      encodeOutput s.srcOff.toNat s.srcLen.toNat s.dstOff.toNat (encodeTabled s) =
        .ok () (encoded s.dstOff.toNat s.source (encodeTabled s))) := by
  have hobuf : (encodeTabled s).obufBytes = s.obufBytes := by simp [encodeTabled, canoned]
  by_cases hfits : s.dstOff.toNat + artifactSize (encodeTabled s) ≤ s.obufBytes.toNat
  · refine .inr ⟨hfits, ?_⟩
    have hcodes := encodeTables_codeNsym_le (encodeTables_eq s)
    have hsize : artifactSize (encodeTabled s) =
        headerLen (encodeTabled s).codeNsym.toNat + bytesFor (totalBits (encodeTabled s).len s.source) := by
      rw [artifactSize, weightedBits_encodeTables (encodeTables_eq s) s.srcLen.isLt]
    have hok : ∃ u, encodeOutput s.srcOff.toNat s.srcLen.toNat s.dstOff.toNat (encodeTabled s) = .ok () u := by
      simp only [encodeOutput, State.outputFits, hobuf, hfits, decide_true, if_true]
      obtain ⟨⟨x, hx, h0⟩, -⟩ | ⟨-, ⟨hout, -⟩ | ⟨-, hp⟩⟩ := procPack_cases s.srcOff.toNat s.srcLen.toNat
        (s.dstOff.toNat + headerLen (encodeTabled s).codeNsym.toNat)
        ((encodeTabled s).writeObuf s.dstOff.toNat (headerBytes s.srcLen.toNat (encodeTabled s).codeNsym.toNat
          (encodeTabled s)))
      · rw [State.ibufRange_writeObuf, encodeTabled_ibufRange] at hx
        rw [State.writeObuf_len] at h0
        exact absurd h0 ((getSym_encodeTabled_len s x).2 hx)
      · rw [State.ibufRange_writeObuf, encodeTabled_ibufRange, State.writeObuf_len, State.writeObuf_obufBytes,
          hobuf] at hout
        rw [State.source] at hsize
        omega
      · rw [hp, Proc.andThen_ok]
        exact ⟨_, rfl⟩
    obtain ⟨u, hu⟩ := hok
    obtain ⟨-, rfl⟩ := encodeOutput_ok hcodes hu
    rw [hu, encodeTabled_ibufRange]
  · refine .inl ⟨by omega, ?_⟩
    simp only [encodeOutput, State.outputFits, hobuf, hfits, decide_false, Bool.false_eq_true, if_false]

theorem cmdEncode_input (hin : ¬ s.srcOff.toNat + s.srcLen.toNat ≤ s.ibufBytes.toNat) :
    cmdEncode s = .fail .bufferOverflow s := by
  simp only [cmdEncode, State.inputFits, hin, decide_false, Bool.false_eq_true, if_false]

theorem cmdEncode_of_input (hin : s.srcOff.toNat + s.srcLen.toNat ≤ s.ibufBytes.toNat) :
    cmdEncode s = encodeOutput s.srcOff.toNat s.srcLen.toNat s.dstOff.toNat (encodeTabled s) := by
  simp only [cmdEncode, State.inputFits, hin, decide_true, if_true, encodeTables_eq, Proc.andThen_ok]

end

/-! ## DECODE -/

/-- The LEN table that a header's symbol table describes (R204). -/
def headerLens (h : Header) : SymTable Byte := loadLengths (Vector.replicate 256 0#8) h.entries

section
variable {es : List (Byte × Byte)} {l : SymTable Byte}

/-- A symbol that the entries do not list keeps its length. -/
theorem getSym_loadLengths_of_notMem {x : Byte} (hx : x ∉ es.map Prod.fst) : getSym (loadLengths l es) x = getSym l x := by
  induction es generalizing l with
  | nil => rfl
  | cons e es ih =>
    rw [List.map_cons, List.mem_cons, not_or] at hx
    rw [loadLengths, ih hx.2, getSym_setSym_other _ _ hx.1]

/-- With no symbol listed twice, each gets its entry's length. -/
theorem getSym_loadLengths_of_mem (hnodup : (es.map Prod.fst).Nodup) {e : Byte × Byte} (he : e ∈ es) :
    getSym (loadLengths l es) e.1 = e.2 := by
  induction es generalizing l with
  | nil => simp at he
  | cons a es ih =>
    rw [List.map_cons, List.nodup_cons] at hnodup
    rw [loadLengths]
    obtain rfl | hmem := List.mem_cons.1 he
    · rw [getSym_loadLengths_of_notMem hnodup.1, getSym_setSym_same]
    · exact ih hnodup.2 hmem

/-- R202: a valid symbol table lists exactly the symbols that get a code. -/
theorem codedSymbols_loadLengths_perm (hnodup : (es.map Prod.fst).Nodup) (hpos : ∀ e ∈ es, e.2 ≠ 0#8) :
    (codedSymbols (loadLengths (Vector.replicate 256 0#8) es)).Perm (es.map Prod.fst) := by
  refine (List.perm_ext_iff_of_nodup (allSymbols_nodup.filter _) hnodup).2 fun x => ?_
  rw [List.mem_filter, bne_iff_ne, and_iff_right (mem_allSymbols x)]
  by_cases hx : x ∈ es.map Prod.fst
  · obtain ⟨e, he, rfl⟩ := List.mem_map.1 hx
    rw [getSym_loadLengths_of_mem hnodup he]
    exact iff_of_true (hpos e he) hx
  · rw [getSym_loadLengths_of_notMem hx, getSym_replicate]
    exact iff_of_false (fun h => h rfl) hx

theorem tableKraft_loadLengths (hnodup : (es.map Prod.fst).Nodup) (hpos : ∀ e ∈ es, e.2 ≠ 0#8) :
    tableKraft (loadLengths (Vector.replicate 256 0#8) es) = (es.map fun e => 2 ^ (255 - e.2.toNat)).sum := by
  rw [tableKraft, ((codedSymbols_loadLengths_perm hnodup hpos).map _).sum_eq, List.map_map]
  refine congrArg List.sum (List.map_congr_left fun e he => ?_)
  rw [Function.comp_apply, getSym_loadLengths_of_mem hnodup he]

/-- R202: none of the three tests fails. -/
theorem lengthsValid_iff : lengthsValid es = true ↔
    (∀ e ∈ es, e.2 ≠ 0#8) ∧ (es.map Prod.fst).Nodup ∧ (es.map fun e => 2 ^ (255 - e.2.toNat)).sum ≤ 2 ^ 255 := by
  rw [lengthsValid, Bool.and_eq_true, Bool.and_eq_true, List.all_eq_true, kraftOk, decide_eq_true_iff,
    decide_eq_true_iff, kraftSum, List.map_map, and_assoc]
  simp only [bne_iff_ne]
  rfl

theorem tableKraft_headerLens {h : Header} (hvalid : lengthsValid h.entries = true) :
    tableKraft (headerLens h) ≤ 2 ^ 255 := by
  obtain ⟨hpos, hnodup, hsum⟩ := lengthsValid_iff.1 hvalid
  exact (tableKraft_loadLengths hnodup hpos).trans_le hsum

end

/-- R204: a valid header's table commit does not fail. -/
theorem commitTable_eq {h : Header} (hvalid : lengthsValid h.entries = true) (s : State) :
    commitTable h s = .ok () (tableCommitted (headerLens h) h.origLen s) := by
  rw [commitTable, ← headerLens, procCanon_ok (s := { s with len := headerLens h }) (tableKraft_headerLens hvalid)]
  rfl

/-- The body of DECODE after the table commit, with the state that DECODE makes of its payload (R205, R206). -/
theorem cmdDecode_of_valid {s : State} {h : Header} (hin : s.srcOff.toNat + s.srcLen.toNat ≤ s.ibufBytes.toNat)
    (hparse : parseHeader s.source = .ok h) (hvalid : lengthsValid h.entries = true) :
    cmdDecode s = decodePayload s.srcOff.toNat s.srcLen.toNat s.dstOff.toNat h
      (tableCommitted (headerLens h) h.origLen s) := by
  rw [cmdDecode_of_header hin hparse hvalid, commitTable_eq hvalid, Proc.andThen_ok]

section
variable {s : State} {h : Header}

theorem decodePayload_output (hout : s.obufBytes.toNat < s.dstOff.toNat + h.origLen) :
    decodePayload s.srcOff.toNat s.srcLen.toNat s.dstOff.toNat h (tableCommitted (headerLens h) h.origLen s) =
      .fail .bufferOverflow (tableCommitted (headerLens h) h.origLen s) := by
  have hfits : (tableCommitted (headerLens h) h.origLen s).outputFits s.dstOff.toNat h.origLen = false :=
    decide_eq_false (by simp only [tableCommitted]; omega)
  rw [decodePayload, hfits]
  rfl

theorem decodePayload_error {k : FailKind} (hout : s.dstOff.toNat + h.origLen ≤ s.obufBytes.toNat)
    (hread : readSymbols (headerLens h) (canonicalCodes (headerLens h)) h.origLen
      (streamBits (s.source.drop (headerLen h.entries.length))) = .error k) :
    decodePayload s.srcOff.toNat s.srcLen.toNat s.dstOff.toNat h (tableCommitted (headerLens h) h.origLen s) =
      .fail k (tableCommitted (headerLens h) h.origLen s) := by
  have hfits : (tableCommitted (headerLens h) h.origLen s).outputFits s.dstOff.toNat h.origLen = true :=
    decide_eq_true hout
  rw [State.ibufRange_drop] at hread
  have hunpack : procUnpack (s.srcOff.toNat + headerLen h.entries.length)
      (s.srcLen.toNat - headerLen h.entries.length) h.origLen s.dstOff.toNat
      (tableCommitted (headerLens h) h.origLen s) = .fail k (tableCommitted (headerLens h) h.origLen s) := by
    obtain ⟨k', hread', heq⟩ | ⟨out, hread', -⟩ := procUnpack_cases (s.srcOff.toNat + headerLen h.entries.length)
      (s.srcLen.toNat - headerLen h.entries.length) h.origLen s.dstOff.toNat (tableCommitted (headerLens h) h.origLen s)
    · cases hread.symm.trans hread'
      exact heq
    · cases hread.symm.trans hread'
  rw [decodePayload, hfits, if_pos rfl, hunpack, Proc.andThen_fail]

theorem decodePayload_decoded {out : List Byte} (hout : s.dstOff.toNat + h.origLen ≤ s.obufBytes.toNat)
    (hread : readSymbols (headerLens h) (canonicalCodes (headerLens h)) h.origLen
      (streamBits (s.source.drop (headerLen h.entries.length))) = .ok out) :
    decodePayload s.srcOff.toNat s.srcLen.toNat s.dstOff.toNat h (tableCommitted (headerLens h) h.origLen s) =
      .ok () (decoded (headerLens h) out s) := by
  have hlen := readSymbols_length _ _ _ _ _ hread
  rw [decoded, hlen]
  exact decodePayload_ok (t := tableCommitted (headerLens h) h.origLen s) hout hread

end

theorem parseHeader_error {a : List Byte} {k : FailKind} (h : parseHeader a = .error k) : k = .invalidHeader := by
  simp only [parseHeader] at h
  split at h
  · cases h; rfl
  · split at h
    · cases h; rfl
    · split at h
      · cases h; rfl
      · split at h
        · cases h; rfl
        · cases h

/-! ## All the ways a body ends -/

/-- The ways the body of a command ends in a state, with what holds in each. -/
inductive Ends (s : State) : Instr → Proc Unit → Prop
  | nop : Ends s .nop (.ok () s)
  | srst : Ends s .srst (.ok () (procSrst s))
  | hist (hin : s.srcOff.toNat + s.srcLen.toNat ≤ s.ibufBytes.toNat) :
      Ends s .hist (.ok () (procHist s.srcOff.toNat s.srcLen.toNat s))
  | histInput (hin : ¬ s.srcOff.toNat + s.srcLen.toNat ≤ s.ibufBytes.toNat) : Ends s .hist (.fail .bufferOverflow s)
  | tseed : Ends s .tseed (.ok () (procSeed s))
  | tmerge (hq : 2 ≤ s.pqCount.toNat) : Ends s .tmerge (.ok () (procMerge s))
  | tmergeQueue (hq : s.pqCount.toNat < 2) : Ends s .tmerge (.fail .badState s)
  | tfin (hq : s.pqCount.toNat ≤ 1) : Ends s .tfin (.ok () (procFin s))
  | tfinQueue (hq : 2 ≤ s.pqCount.toNat) : Ends s .tfin (.fail .badState s)
  | tbuild : Ends s .tbuild (.ok () (procBuild s))
  | clen : Ends s .clen (.ok () (procDepth s))
  | ccanon (hk : tableKraft s.len ≤ 2 ^ 255) : Ends s .ccanon (.ok () (canoned s))
  | ccanonKraft (hk : 2 ^ 255 < tableKraft s.len) :
      Ends s .ccanon (.fail .inconsistentCodeLengths (s.setTblv false))
  | cgen (hk : tableKraft (depthTable s.node s.root) ≤ 2 ^ 255) : Ends s .cgen (.ok () (canoned (procDepth s)))
  | cgenKraft (hk : 2 ^ 255 < tableKraft (depthTable s.node s.root)) :
      Ends s .cgen (.fail .inconsistentCodeLengths ((procDepth s).setTblv false))
  | pack (hfits : PackFits s) : Ends s .pack (.ok () (packed s))
  | packFail (k : FailKind) (hk : k = .bufferOverflow ∨ k = .badState) : Ends s .pack (.fail k s)
  | unpack (hfits : UnpackFits s) (out : List Byte) (hout : out.length = s.symN.toNat) :
      Ends s .unpack (.ok () { s.writeObuf s.dstOff.toNat out with dstLen := s.symN })
  | unpackFail (k : FailKind)
      (hk : k = .truncatedPayload ∨ k = .unassignedCode ∨ k = .bufferOverflow ∨ k = .badState) :
      Ends s .unpack (.fail k s)
  | encode (hout : s.dstOff.toNat + artifactSize (encodeTabled s) ≤ s.obufBytes.toNat) :
      Ends s .encode (.ok () (encoded s.dstOff.toNat s.source (encodeTabled s)))
  | encodeInput : Ends s .encode (.fail .bufferOverflow s)
  | encodeOutput : Ends s .encode (.fail .bufferOverflow (encodeTabled s))
  | decode (l : SymTable Byte) (hk : tableKraft l ≤ 2 ^ 255) (out : List Byte)
      (hout : s.dstOff.toNat + out.length ≤ s.obufBytes.toNat) : Ends s .decode (.ok () (decoded l out s))
  | decodeHeader (k : FailKind) (hk : k = .invalidHeader ∨ k = .inconsistentCodeLengths ∨ k = .bufferOverflow) :
      Ends s .decode (.fail k s)
  | decodePayload (l : SymTable Byte) (hl : tableKraft l ≤ 2 ^ 255) (n : Nat) (k : FailKind)
      (hk : k = .truncatedPayload ∨ k = .unassignedCode ∨ k = .bufferOverflow) :
      Ends s .decode (.fail k (tableCommitted l n s))

section
variable (s : State)

theorem ends_hist : Ends s .hist (cmdHist s) := by
  rw [cmdHist]
  split
  · next h => exact .hist (of_decide_eq_true h)
  · next h => exact .histInput fun hin => h (decide_eq_true hin)

theorem ends_tmerge : Ends s .tmerge (cmdTmerge s) := by
  rw [cmdTmerge]
  split
  · next h => exact .tmergeQueue (BitVec.lt_def.1 h)
  · next h => exact .tmerge (Nat.not_lt.1 fun hlt => h (BitVec.lt_def.2 hlt))

theorem ends_tfin : Ends s .tfin (cmdTfin s) := by
  rw [cmdTfin]
  split
  · next h => exact .tfinQueue (BitVec.le_def.1 h)
  · next h => exact .tfin (Nat.le_of_lt_succ (Nat.not_le.1 fun hle => h (BitVec.le_def.2 hle)))

theorem ends_ccanon : Ends s .ccanon (procCanon s) := by
  obtain hk | hk := Nat.lt_or_ge (2 ^ 255) (tableKraft s.len)
  · exact procCanon_fail hk ▸ .ccanonKraft hk
  · exact procCanon_ok hk ▸ .ccanon hk

theorem ends_cgen : Ends s .cgen (procCanon (procDepth s)) := by
  obtain hk | hk := Nat.lt_or_ge (2 ^ 255) (tableKraft (depthTable s.node s.root))
  · rw [procCanon_fail (s := procDepth s) hk]
    exact .cgenKraft hk
  · rw [procCanon_ok (s := procDepth s) hk]
    exact .cgen hk

theorem ends_pack : Ends s .pack (cmdPack s) := by
  by_cases htblv : s.status.tblv = true
  · by_cases hin : s.srcOff.toNat + s.srcLen.toNat ≤ s.ibufBytes.toNat
    · by_cases hx : ∀ x ∈ s.source, getSym s.len x ≠ 0#8
      · obtain hout | hout := Nat.lt_or_ge s.obufBytes.toNat (s.dstOff.toNat + bytesFor (totalBits s.len s.source))
        · exact cmdPack_output htblv hin hx hout ▸ .packFail _ (.inl rfl)
        · exact PackFits.cmdPack_eq ⟨htblv, hin, hx, hout⟩ ▸ .pack ⟨htblv, hin, hx, hout⟩
      · push Not at hx
        exact cmdPack_uncoded htblv hin hx ▸ .packFail _ (.inr rfl)
    · exact cmdPack_input htblv hin ▸ .packFail _ (.inl rfl)
  · exact cmdPack_no_table (Bool.eq_false_of_not_eq_true htblv) ▸ .packFail _ (.inr rfl)

theorem ends_unpack : Ends s .unpack (cmdUnpack s) := by
  by_cases htblv : s.status.tblv = true
  · by_cases hin : s.srcOff.toNat + s.srcLen.toNat ≤ s.ibufBytes.toNat
    · by_cases hout : s.dstOff.toNat + s.symN.toNat ≤ s.obufBytes.toNat
      · have hfits : UnpackFits s := ⟨htblv, hin, hout⟩
        rw [hfits.cmdUnpack_eq]
        obtain ⟨k, hread, heq⟩ | ⟨out, hread, heq⟩ :=
          procUnpack_cases s.srcOff.toNat s.srcLen.toNat s.symN.toNat s.dstOff.toNat s
        · rw [heq, Proc.andThen_fail]
          obtain rfl | rfl := readSymbols_error hread
          · exact .unpackFail _ (.inl rfl)
          · exact .unpackFail _ (.inr (.inl rfl))
        · rw [heq, Proc.andThen_ok, BitVec.ofNat_toNat, BitVec.setWidth_eq]
          exact .unpack hfits out (readSymbols_length _ _ _ _ _ hread)
      · exact cmdUnpack_output htblv hin hout ▸ .unpackFail _ (.inr (.inr (.inl rfl)))
    · exact cmdUnpack_input htblv hin ▸ .unpackFail _ (.inr (.inr (.inl rfl)))
  · exact cmdUnpack_no_table (Bool.eq_false_of_not_eq_true htblv) ▸ .unpackFail _ (.inr (.inr (.inr rfl)))

theorem ends_encode : Ends s .encode (cmdEncode s) := by
  by_cases hin : s.srcOff.toNat + s.srcLen.toNat ≤ s.ibufBytes.toNat
  · rw [cmdEncode_of_input s hin]
    obtain ⟨-, heq⟩ | ⟨hout, heq⟩ := encodeOutput_encodeTabled s
    · exact heq ▸ .encodeOutput
    · exact heq ▸ .encode hout
  · exact cmdEncode_input s hin ▸ .encodeInput

theorem ends_decode : Ends s .decode (cmdDecode s) := by
  by_cases hin : s.srcOff.toNat + s.srcLen.toNat ≤ s.ibufBytes.toNat
  · have hfits : s.inputFits s.srcOff.toNat s.srcLen.toNat = true := decide_eq_true hin
    cases hparse : parseHeader s.source with
    | error k =>
      have heq : cmdDecode s = .fail k s := by simp only [cmdDecode, hfits, hparse, if_true]
      exact heq ▸ .decodeHeader k (.inl (parseHeader_error hparse))
    | ok h =>
      cases hvalid : lengthsValid h.entries with
      | false =>
        have heq : cmdDecode s = .fail .inconsistentCodeLengths s := by
          simp only [cmdDecode, hfits, hparse, hvalid, if_true, Bool.false_eq_true, if_false]
        exact heq ▸ .decodeHeader _ (.inr (.inl rfl))
      | true =>
        have hkraft := tableKraft_headerLens hvalid
        rw [cmdDecode_of_valid hin hparse hvalid]
        obtain hout | hout := Nat.lt_or_ge s.obufBytes.toNat (s.dstOff.toNat + h.origLen)
        · rw [decodePayload_output hout]
          exact .decodePayload _ hkraft _ _ (.inr (.inr rfl))
        · cases hread : readSymbols (headerLens h) (canonicalCodes (headerLens h)) h.origLen
              (streamBits (s.source.drop (headerLen h.entries.length))) with
          | error k =>
            rw [decodePayload_error hout hread]
            obtain rfl | rfl := readSymbols_error hread
            · exact .decodePayload _ hkraft _ _ (.inl rfl)
            · exact .decodePayload _ hkraft _ _ (.inr (.inl rfl))
          | ok out =>
            rw [decodePayload_decoded hout hread]
            exact .decode _ hkraft out (by rw [readSymbols_length _ _ _ _ _ hread]; exact hout)
  · have heq : cmdDecode s = .fail .bufferOverflow s := by
      simp only [cmdDecode, State.inputFits, hin, decide_false, Bool.false_eq_true, if_false]
    exact heq ▸ .decodeHeader _ (.inr (.inr rfl))

/-- Every command's body ends in one of the listed ways. -/
theorem ends_body (i : Instr) : Ends s i (body i s) := by
  cases i with
  | nop => exact .nop
  | srst => exact .srst
  | hist => exact ends_hist s
  | tseed => exact .tseed
  | tmerge => exact ends_tmerge s
  | tfin => exact ends_tfin s
  | tbuild => exact .tbuild
  | clen => exact .clen
  | ccanon => exact ends_ccanon s
  | cgen => exact ends_cgen s
  | pack => exact ends_pack s
  | unpack => exact ends_unpack s
  | encode => exact ends_encode s
  | decode => exact ends_decode s

end

/-- What a command answers: its body ended in one of the listed ways and the end of a command took that to STATUS. -/
theorem exec_ends {i : Instr} {s t : State} (h : exec i s = .next t) : ∃ p, Ends s i p ∧ t = complete i s p := by
  rw [exec_eq, Host.Outcome.next.injEq] at h
  exact ⟨body i s, ends_body s i, h.symm⟩

/-! ## All the ways a step ends -/

/-- What one event makes of a state (spec/20_memory.md R61, spec/70_reset_and_hazards.md R250). -/
inductive Performed (s : State) : State → Prop
  | read (d : Datum) : Performed s (receive d s)
  | csr (index : Nat) (v : Word) : Performed s (csrStore s index v)
  | table (space : WordSpace) (index : Nat) (v : Word) : Performed s (tableStore s space index v)
  | byte (space : ByteSpace) (index : Nat) (v : Byte) : Performed s (hostWriteByte space index v s)
  | reset : Performed s (hardReset s)
  | illegal (w : Word) : Performed s (illegalCommand w s)
  | command (i : Instr) (p : Proc Unit) (hp : Ends s i p) : Performed s (complete i s p)

theorem performed_perform {e : Event} {s t : State} (h : perform e s = .next t) : Performed s t := by
  cases e with
  | readWord space index => cases h; exact .read _
  | readByte space index => cases h; exact .read _
  | writeByte space index v => cases h; exact .byte space index v
  | hardReset => cases h; exact .reset
  | writeWord space index v =>
    by_cases hcsr : space = .csr
    · subst hcsr
      by_cases hcmd : index = cmdIndex
      · subst hcmd
        rw [show Event.writeWord .csr cmdIndex v = cmdWrite v from rfl, perform_cmdWrite] at h
        cases hd : decode v with
        | illegal r =>
          rw [execute_illegal v r s hd] at h
          cases h
          exact .illegal v
        | command i =>
          rw [execute_command v i s hd] at h
          obtain ⟨p, hp, rfl⟩ := exec_ends h
          exact .command i p hp
      · rw [perform_csrWrite _ _ _ hcmd] at h
        cases h
        exact .csr index v
    · have ht : perform (.writeWord space index v) s = .next (tableStore s space index v) := by
        cases space with
        | csr => exact absurd rfl hcsr
        | hist | len | code | order | node => rfl
      rw [ht] at h
      cases h
      exact .table space index v

/-- A step is idle, or performs an event in the state with that event taken from the script (log 1, log 2). -/
theorem step_performed {s t : State} (h : step s = .next t) :
    t = s ∨ ∃ rest, Performed { s with script := rest } t := by
  cases hs : s.script with
  | nil =>
    rw [step_idle s hs] at h
    cases h
    exact .inl rfl
  | cons e rest =>
    rw [step_event s e rest hs] at h
    exact .inr ⟨rest, performed_perform h⟩

end Sys2Proof.Machine
end

section
/-! PROOFS. Invariants (spec/10_state.md R26, R35 to R40): every way a step can end keeps the tree, the code table, the
buffers and the coherence of the outcome. -/

namespace Sys2Proof.Machine

/-! ## Updates that leave the rest of the state alone -/

/-- State s with the tree of u. -/
def State.withTree (s u : State) : State :=
  { s with node := u.node, nodeCount := u.nodeCount, pqCount := u.pqCount, root := u.root }

theorem mergeLoop_withTree (n : Nat) (s : State) : mergeLoop n s = s.withTree (mergeLoop n s) := by
  induction n generalizing s with
  | zero => rfl
  | succ n ih =>
    rw [mergeLoop]
    split
    · exact ih (procMerge s)
    · rfl

theorem procFin_withTree (s : State) : procFin s = s.withTree (procFin s) := by
  rw [procFin]
  split
  · rfl
  · simp only []
    split <;> rfl

theorem procSeed_withTree (s : State) : procSeed s = s.withTree (procSeed s) := rfl

/-- A second tree takes the place of the first. -/
theorem State.withTree_withTree (s u v : State) : (s.withTree u).withTree v = s.withTree v := rfl

theorem procBuild_withTree (s : State) : procBuild s = s.withTree (procBuild s) := by
  have hloop := mergeLoop_withTree (procSeed s).pqCount.toNat (procSeed s)
  rw [show procBuild s = procFin (mergeLoop (procSeed s).pqCount.toNat (procSeed s)) from rfl]
  generalize mergeLoop (procSeed s).pqCount.toNat (procSeed s) = u at *
  calc procFin u
      = u.withTree (procFin u) := procFin_withTree u
    _ = ((s.withTree (procSeed s)).withTree u).withTree (procFin u) := by rw [← procSeed_withTree, ← hloop]
    _ = s.withTree (procFin u) := by rw [State.withTree_withTree, State.withTree_withTree]

theorem exists_procBuild_eq (s : State) : ∃ u, procBuild s = s.withTree u := ⟨_, procBuild_withTree s⟩

/-- State s with the tables and their registers of u, and its TBLV. -/
def State.withTables (s u : State) : State :=
  { s.withTree u with
    hist := u.hist, histTotal := u.histTotal, histNsym := u.histNsym
    len := u.len, code := u.code, order := u.order, codeNsym := u.codeNsym
    status := { s.status with tblv := u.status.tblv } }

/-- R190: ENCODE's table procedures write tables, their registers and TBLV. -/
theorem encodeTabled_withTables (s : State) : encodeTabled s = s.withTables (encodeTabled s) := by
  rw [encodeTabled, procBuild_withTree]
  generalize procBuild _ = b
  rfl

theorem exists_encodeTabled_eq (s : State) : ∃ u, encodeTabled s = s.withTables u := ⟨_, encodeTabled_withTables s⟩

/-! ## The tree -/

theorem sameTree_canoned (s : State) : SameTree s (canoned s) := ⟨rfl, rfl, rfl, rfl⟩

theorem sameTree_encoded (dst : Nat) (xs : List Byte) (s : State) : SameTree s (encoded dst xs s) := by
  constructor <;> simp [encoded]

theorem sameTree_procDepth (s : State) : SameTree s (procDepth s) := ⟨rfl, rfl, rfl, rfl⟩

theorem treeOk_encodeTabled (s : State) : TreeOk (encodeTabled s) := by
  rw [encodeTabled]
  exact ((treeOk_procBuild _).congr (sameTree_procDepth _)).congr (sameTree_canoned _)

/-- The end of a command leaves the tree as the body left it. -/
theorem TreeOk.complete {p : Proc Unit} (h : TreeOk p.state) (i : Instr) (s : State) : TreeOk (complete i s p) := by
  cases p with
  | ok _ t => exact h.congr ⟨rfl, rfl, rfl, rfl⟩
  | fail k t => exact h.congr ⟨rfl, rfl, rfl, rfl⟩

theorem Ends.treeOk_state {s : State} {i : Instr} {p : Proc Unit} (h : Ends s i p) (hs : TreeOk s) :
    TreeOk p.state := by
  cases h with
  | srst => exact treeOk_of_sameTree_reset ⟨rfl, rfl, rfl, rfl⟩
  | tseed => exact treeOk_procSeed s
  | tmerge hq => exact treeOk_procMerge hs hq
  | tfin hq => exact treeOk_procFin hs hq
  | tbuild => exact treeOk_procBuild s
  | encode => exact (treeOk_encodeTabled s).congr (sameTree_encoded _ _ _)
  | encodeOutput => exact treeOk_encodeTabled s
  | _ => exact hs.congr ⟨rfl, rfl, rfl, rfl⟩

/-- No host access writes a register that the machine owns (R23, R60), and NODE ignores writes. -/
theorem sameTree_csrStore (s : State) (index : Nat) (v : Word) : SameTree s (csrStore s index v) := by
  unfold csrStore
  split <;> exact ⟨rfl, rfl, rfl, rfl⟩

theorem sameTree_tableStore (s : State) (space : WordSpace) (index : Nat) (v : Word) :
    SameTree s (tableStore s space index v) := by
  unfold tableStore
  split
  · exact ⟨rfl, rfl, rfl, rfl⟩
  · split <;> exact ⟨rfl, rfl, rfl, rfl⟩
  all_goals exact ⟨rfl, rfl, rfl, rfl⟩

theorem hostWriteByte_cases (space : ByteSpace) (index : Nat) (v : Byte) (s : State) :
    hostWriteByte space index v s = s ∨
      (index < s.ibufBytes.toNat ∧ hostWriteByte space index v s = { s with ibuf := Memory.write s.ibuf index v }) := by
  cases space with
  | obuf => exact .inl rfl
  | ibuf =>
    by_cases hin : index < s.ibufBytes.toNat
    · exact .inr ⟨hin, if_pos hin⟩
    · exact .inl (if_neg hin)

theorem Performed.treeOk {s t : State} (h : Performed s t) (hs : TreeOk s) : TreeOk t := by
  cases h with
  | csr index v => exact hs.congr (sameTree_csrStore s index v)
  | table space index v => exact hs.congr (sameTree_tableStore s space index v)
  | byte space index v =>
    obtain heq | ⟨-, heq⟩ := hostWriteByte_cases space index v s
    · rwa [heq]
    · rw [heq]
      exact hs.congr ⟨rfl, rfl, rfl, rfl⟩
  | reset => exact treeOk_of_sameTree_reset ⟨rfl, rfl, rfl, rfl⟩
  | command i p hp => exact (hp.treeOk_state hs).complete i s
  | read | illegal => exact hs.congr ⟨rfl, rfl, rfl, rfl⟩

/-- Settles O59: a step is idle or one event, and every event keeps the tree: the TreeBuilder's procedures and ENCODE make a
tree of one or from nothing, and no other event writes it. -/
theorem stepKeepsTheTree : Obligations.StepKeepsTheTree := by
  intro s t hs hstep
  obtain rfl | ⟨rest, hp⟩ := step_performed hstep
  · exact hs
  · exact hp.treeOk (hs.congr ⟨rfl, rfl, rfl, rfl⟩)

/-! ## The code table -/

theorem tableOk_encodeTabled (s : State) : TableOk (encodeTabled s) := by
  rw [encodeTabled]
  exact tableOk_canoned (tableKraft_procDepth_procBuild _)

theorem TableOk.encoded {s : State} (h : TableOk s) (dst : Nat) (xs : List Byte) : TableOk (encoded dst xs s) := by
  refine h.congr ?_ ?_ ⟨?_, ?_, ?_⟩ <;> simp [Machine.encoded]

/-- The end of a command leaves the code table as the body left it. -/
theorem TableOk.complete {p : Proc Unit} (h : TableOk p.state) (i : Instr) (s : State) : TableOk (complete i s p) := by
  cases p with
  | ok _ t => exact h.congr rfl rfl ⟨rfl, rfl, rfl⟩
  | fail k t => exact h.congr rfl rfl ⟨rfl, rfl, rfl⟩

/-- R204: the table that DECODE commits is the canonical one of its lengths. -/
theorem tableOk_tableCommitted {l : SymTable Byte} (hk : tableKraft l ≤ 2 ^ 255) (n : Nat) (s : State) :
    TableOk (tableCommitted l n s) :=
  (tableOk_canoned (s := { s with len := l }) hk).congr rfl rfl ⟨rfl, rfl, rfl⟩

theorem Ends.tableOk_state {s : State} {i : Instr} {p : Proc Unit} (h : Ends s i p) (hs : TableOk s) :
    TableOk p.state := by
  cases h with
  | srst | clen | ccanonKraft | cgenKraft => exact tableOk_of_tblv_false rfl
  | ccanon hk => exact tableOk_canoned hk
  | cgen hk => exact tableOk_canoned (s := procDepth s) hk
  | encode => exact (tableOk_encodeTabled s).encoded _ _
  | encodeOutput => exact tableOk_encodeTabled s
  | decode l hk out => exact (tableOk_tableCommitted hk out.length s).congr rfl rfl ⟨rfl, rfl, rfl⟩
  | decodePayload l hl n => exact tableOk_tableCommitted hl n s
  | tfin =>
    rw [procFin_withTree]
    exact hs.congr rfl rfl ⟨rfl, rfl, rfl⟩
  | tbuild =>
    obtain ⟨b, hb⟩ := exists_procBuild_eq s
    rw [hb]
    exact hs.congr rfl rfl ⟨rfl, rfl, rfl⟩
  | _ => exact hs.congr rfl rfl ⟨rfl, rfl, rfl⟩

/-- R29, R34: a host write of LEN clears TBLV, and CODE and ORDER ignore writes. -/
theorem tableOk_tableStore {s : State} (hs : TableOk s) (space : WordSpace) (index : Nat) (v : Word) :
    TableOk (tableStore s space index v) := by
  unfold tableStore
  split
  · exact hs.congr rfl rfl ⟨rfl, rfl, rfl⟩
  · split
    · exact tableOk_of_tblv_false rfl
    · exact hs
  all_goals exact hs

theorem tableOk_csrStore {s : State} (hs : TableOk s) (index : Nat) (v : Word) : TableOk (csrStore s index v) := by
  unfold csrStore
  split <;> exact hs.congr rfl rfl ⟨rfl, rfl, rfl⟩

theorem Performed.tableOk {s t : State} (h : Performed s t) (hs : TableOk s) : TableOk t := by
  cases h with
  | csr index v => exact tableOk_csrStore hs index v
  | table space index v => exact tableOk_tableStore hs space index v
  | byte space index v =>
    obtain heq | ⟨-, heq⟩ := hostWriteByte_cases space index v s
    · rwa [heq]
    · rw [heq]
      exact hs.congr rfl rfl ⟨rfl, rfl, rfl⟩
  | reset => exact tableOk_of_tblv_false rfl
  | command i p hp => exact (hp.tableOk_state hs).complete i s
  | read | illegal => exact hs.congr rfl rfl ⟨rfl, rfl, rfl⟩

/-- Settles O60: an event that writes LEN, CODE or ORDER leaves TBLV = 0 or runs `Canon` on lengths that passed the Kraft
test, whose codes are a valid table. -/
theorem stepKeepsTheCodeTable : Obligations.StepKeepsTheCodeTable := by
  intro s t hs hstep
  obtain rfl | ⟨rest, hp⟩ := step_performed hstep
  · exact hs
  · exact hp.tableOk (hs.congr rfl rfl ⟨rfl, rfl, rfl⟩)

/-! ## The buffers and the outcome -/

theorem BuffersOk.congr {s t : State} (h : BuffersOk s) (hibuf : t.ibuf = s.ibuf) (hobuf : t.obuf = s.obuf)
    (hin : t.ibufBytes = s.ibufBytes) (hout : t.obufBytes = s.obufBytes) : BuffersOk t := by
  constructor <;> simp only [hibuf, hobuf, hin, hout]
  exacts [h.ibuf_wf, h.obuf_wf, h.ibuf_in, h.obuf_in]

/-- R38: bytes written within the capacity keep OBUF in canonical form and within it. -/
theorem BuffersOk.writeObuf {s : State} (h : BuffersOk s) {dst : Nat} {bs : List Byte}
    (hfits : dst + bs.length ≤ s.obufBytes.toNat) : BuffersOk (s.writeObuf dst bs) where
  ibuf_wf := h.ibuf_wf
  obuf_wf := Memory.wf_writeAll _ _ _ h.obuf_wf
  ibuf_in := h.ibuf_in
  obuf_in := fun c hc => by
    obtain ⟨-, hlt⟩ | hmem := Memory.mem_writeAll _ _ _ c hc
    · exact hlt.trans_le hfits
    · exact h.obuf_in c hmem

theorem BuffersOk.writeIbuf {s : State} (h : BuffersOk s) {a : Nat} (ha : a < s.ibufBytes.toNat) (b : Byte) :
    BuffersOk { s with ibuf := Memory.write s.ibuf a b } where
  ibuf_wf := Memory.wf_write _ _ _ h.ibuf_wf
  obuf_wf := h.obuf_wf
  ibuf_in := fun c hc => by
    obtain heq | hmem := Memory.mem_write _ _ _ c hc
    · exact heq ▸ ha
    · exact h.ibuf_in c hmem
  obuf_in := h.obuf_in

theorem BuffersOk.encoded {s : State} (h : BuffersOk s) {dst : Nat} {xs : List Byte}
    (hfits : dst + (artifactBytes xs s).length ≤ s.obufBytes.toNat) : BuffersOk (encoded dst xs s) := by
  refine (h.writeObuf hfits).congr ?_ ?_ ?_ ?_ <;> simp [Machine.encoded]

theorem BuffersOk.complete_ok {t : State} (h : BuffersOk t) (i : Instr) (s : State) :
    BuffersOk (complete i s (.ok () t)) :=
  h.congr rfl rfl rfl rfl

theorem Ends.buffersOk {s : State} {i : Instr} {p : Proc Unit} (h : Ends s i p) (hs : BuffersOk s) :
    BuffersOk (complete i s p) := by
  obtain ⟨u, hu⟩ := exists_encodeTabled_eq s
  cases h with
  | pack hfits => exact (hs.writeObuf (by rw [packBytes_length]; exact hfits.output)).congr rfl rfl rfl rfl
  | unpack hfits out hout => exact (hs.writeObuf (hout ▸ hfits.output)).congr rfl rfl rfl rfl
  | encode hout =>
    rw [artifactSize_encodeTables (encodeTables_eq s) s.srcLen.isLt] at hout
    rw [hu] at hout ⊢
    have htabled : BuffersOk (s.withTables u) := hs.congr rfl rfl rfl rfl
    exact (htabled.encoded hout).complete_ok .encode s
  | decode l hk out hout => exact (hs.writeObuf hout).congr rfl rfl rfl rfl
  | encodeOutput =>
    rw [hu]
    exact hs.congr rfl rfl rfl rfl
  | tfin =>
    rw [procFin_withTree]
    exact hs.congr rfl rfl rfl rfl
  | tbuild =>
    obtain ⟨b, hb⟩ := exists_procBuild_eq s
    rw [hb]
    exact hs.congr rfl rfl rfl rfl
  | _ => exact hs.congr rfl rfl rfl rfl

/-- R26, R110: the end of a command sets exactly one of DONE and FAIL, and KIND with FAIL. -/
theorem outcomeOk_complete (i : Instr) (s : State) (p : Proc Unit) : OutcomeOk (complete i s p) := by
  cases p with
  | ok _ t => exact ⟨fun h => Bool.false_ne_true h.2, iff_of_false Bool.false_ne_true fun h => h rfl⟩
  | fail k t => exact ⟨fun h => Bool.false_ne_true h.1, iff_of_true rfl nofun⟩

/-- The outcome invariant reads DONE, FAIL and KIND alone. -/
theorem OutcomeOk.congr {s t : State} (h : OutcomeOk s) (hdone : t.status.done = s.status.done)
    (hfail : t.status.fail = s.status.fail) (hkind : t.status.kind = s.status.kind) : OutcomeOk t := by
  constructor <;> simp only [hdone, hfail, hkind]
  exacts [h.not_both, h.fail_iff]

theorem csrStore_buffersOk {s : State} (hb : BuffersOk s) (ho : OutcomeOk s) (index : Nat) (v : Word) :
    BuffersOk (csrStore s index v) ∧ OutcomeOk (csrStore s index v) := by
  unfold csrStore
  split <;> exact ⟨hb.congr rfl rfl rfl rfl, ho.congr rfl rfl rfl⟩

theorem tableStore_buffersOk {s : State} (hb : BuffersOk s) (ho : OutcomeOk s) (space : WordSpace) (index : Nat)
    (v : Word) : BuffersOk (tableStore s space index v) ∧ OutcomeOk (tableStore s space index v) := by
  unfold tableStore
  split
  · exact ⟨hb.congr rfl rfl rfl rfl, ho.congr rfl rfl rfl⟩
  · split
    · exact ⟨hb.congr rfl rfl rfl rfl, ho.congr rfl rfl rfl⟩
    · exact ⟨hb, ho⟩
  all_goals exact ⟨hb, ho⟩

/-- R41: after a hardware reset neither buffer lists a byte and no outcome is set. -/
theorem buffersOk_hardReset (s : State) : BuffersOk (hardReset s) ∧ OutcomeOk (hardReset s) :=
  ⟨⟨rfl, rfl, nofun, nofun⟩, ⟨fun h => Bool.false_ne_true h.1, iff_of_false Bool.false_ne_true fun h => h rfl⟩⟩

theorem Performed.buffersOk {s t : State} (h : Performed s t) (hb : BuffersOk s) (ho : OutcomeOk s) :
    BuffersOk t ∧ OutcomeOk t := by
  cases h with
  | read d => exact ⟨hb.congr rfl rfl rfl rfl, ho.congr rfl rfl rfl⟩
  | csr index v => exact csrStore_buffersOk hb ho index v
  | table space index v => exact tableStore_buffersOk hb ho space index v
  | byte space index v =>
    obtain heq | ⟨hin, heq⟩ := hostWriteByte_cases space index v s
    · rw [heq]
      exact ⟨hb, ho⟩
    · rw [heq]
      exact ⟨hb.writeIbuf hin v, ho.congr rfl rfl rfl⟩
  | reset => exact buffersOk_hardReset s
  | illegal w =>
    rw [illegalCommand_eq]
    exact ⟨hb.congr rfl rfl rfl rfl, ⟨fun h => Bool.false_ne_true h.1, iff_of_true rfl nofun⟩⟩
  | command i p hp => exact ⟨hp.buffersOk hb, outcomeOk_complete i s p⟩

/-- Settles O58: the output commands write only what they found room for, the host's writes are range-checked, and the end
of a command writes a coherent outcome. -/
theorem stepKeepsBuffersAndOutcome : Obligations.StepKeepsBuffersAndOutcome := by
  intro s t hb ho hstep
  obtain rfl | ⟨rest, hp⟩ := step_performed hstep
  · exact ⟨hb, ho⟩
  · exact hp.buffersOk (hb.congr rfl rfl rfl rfl) (ho.congr rfl rfl rfl)

/-- Settles O57: the reset state has empty buffers, no outcome, no tree and TBLV = 0. -/
theorem resetMeetsTheInvariants : Obligations.ResetMeetsTheInvariants :=
  ⟨⟨fun h => Bool.false_ne_true h.1, iff_of_false Bool.false_ne_true fun h => h rfl⟩, ⟨rfl, rfl, nofun, nofun⟩,
    treeOk_of_sameTree_reset ⟨rfl, rfl, rfl, rfl⟩, tableOk_of_tblv_false rfl⟩

end Sys2Proof.Machine
end

section
/-! PROOFS. What every command does: the outcome it reports, the state it leaves alone, and what it keeps of the previous
outcome (spec/10_state.md R26 to R28, spec/20_memory.md R74, spec/60_exceptions.md R224, R226, R235). -/

namespace Sys2Proof.Machine

/-! ## The outcome -/

/-- R110: LASTOP is the command's opcode. -/
theorem complete_lastop (i : Instr) (s : State) (p : Proc Unit) :
    (complete i s p).status.lastop = (encode i).extractLsb' 0 8 := by
  cases p <;> rfl

theorem complete_done (i : Instr) (s : State) (p : Proc Unit) :
    (complete i s p).status.done = !(complete i s p).status.fail := by
  cases p <;> rfl

/-- Settles O16: every command is its body and then the end of a command, which sets the outcome. -/
theorem everyCommandReportsItsOutcome : Obligations.EveryCommandReportsItsOutcome := fun i s =>
  ⟨_, exec_eq i s, complete_done i s _, (outcomeOk_complete i s _).fail_iff, complete_lastop i s _⟩

/-- Settles O20: a successful body leaves KIND none, and the list of the ways a body ends gives each failure's kind; on a
tree of the TreeBuilder the lengths that CGEN computes meet the Kraft inequality. -/
theorem failureKindsByCommand : Obligations.FailureKindsByCommand := by
  intro i s t k htree hexec hkind
  obtain ⟨p, hp, rfl⟩ := exec_ends hexec
  cases p with
  | ok _ t => exact absurd hkind nofun
  | fail k' t =>
    obtain rfl : k' = k := Option.some.inj hkind
    cases hp with
    | histInput | tmergeQueue | tfinQueue | ccanonKraft | encodeInput | encodeOutput => rfl
    | cgenKraft hk => exact hk.not_ge (tableKraft_depthTable_le htree)
    | packFail _ hk | unpackFail _ hk => exact hk
    | decodeHeader _ hk =>
      obtain rfl | rfl | rfl := hk
      exacts [.inl rfl, .inr (.inl rfl), .inr (.inr (.inr (.inr rfl)))]
    | decodePayload _ _ _ _ hk => exact .inr (.inr hk)

/-! ## The host side -/

/-- The end of a command leaves the host side as the body left it. -/
theorem SameHostSide.complete {s : State} {p : Proc Unit} (h : SameHostSide s p.state) (i : Instr) :
    SameHostSide s (complete i s p) := by
  cases p with
  | ok _ t => exact ⟨h.srcOff, h.srcLen, h.dstOff, h.symN, h.ibuf, h.ibufBytes, h.obufBytes, h.resets, h.script, h.received⟩
  | fail k t =>
    exact ⟨h.srcOff, h.srcLen, h.dstOff, h.symN, h.ibuf, h.ibufBytes, h.obufBytes, h.resets, h.script, h.received⟩

theorem sameHostSide_withTree (s u : State) : SameHostSide s (s.withTree u) :=
  ⟨rfl, rfl, rfl, rfl, fun _ => rfl, rfl, rfl, rfl, rfl, rfl⟩

theorem Ends.sameHostSide {s : State} {i : Instr} {p : Proc Unit} (h : Ends s i p) : SameHostSide s p.state := by
  obtain ⟨u, hu⟩ := exists_encodeTabled_eq s
  cases h with
  | tfin =>
    rw [procFin_withTree]
    exact sameHostSide_withTree s _
  | tbuild =>
    rw [procBuild_withTree]
    exact sameHostSide_withTree s _
  | encode | encodeOutput =>
    rw [hu]
    exact ⟨rfl, rfl, rfl, rfl, fun _ => rfl, rfl, rfl, rfl, rfl, rfl⟩
  | _ => exact ⟨rfl, rfl, rfl, rfl, fun _ => rfl, rfl, rfl, rfl, rfl, rfl⟩

/-- Settles O17: none of the ways a body ends writes the operands, IBUF, the parameters or the model's own fields. -/
theorem commandsKeepTheHostSide : Obligations.CommandsKeepTheHostSide := by
  intro i s t hexec
  obtain ⟨p, hp, rfl⟩ := exec_ends hexec
  exact hp.sameHostSide.complete i

/-! ## Failures -/

/-- R224(4): a failed command leaves every OBUF byte, for the failure commit takes back what the body wrote. -/
theorem obufByte_complete_fail {i : Instr} {s t : State} {k : FailKind} (hresets : t.resets = s.resets) (a : Nat) :
    (complete i s (.fail k t)).obufByte a = s.obufByte a := by
  simp only [State.obufByte, complete, failureCommit, hresets]

/-- R224(2): the output commands are PACK, UNPACK, ENCODE and DECODE. -/
theorem dstLen_complete_fail {i : Instr} {s t : State} {k : FailKind} (hdst : t.dstLen = s.dstLen) :
    (complete i s (.fail k t)).dstLen =
      if i = .pack ∨ i = .unpack ∨ i = .encode ∨ i = .decode then 0#32 else s.dstLen := by
  rw [← hdst]
  cases i <;> rfl

/-- R224(3): DECODE alone writes DSTATE when it fails. -/
theorem dstate_complete_fail {i : Instr} {s t : State} {k : FailKind} (hdstate : t.status.dstate = s.status.dstate) :
    (complete i s (.fail k t)).status.dstate = if i = .decode then .failed else s.status.dstate := by
  rw [← hdstate]
  cases i <;> rfl

/-- What the body of a failing command has left alone at its `raise`. -/
theorem Ends.of_fail {s t : State} {i : Instr} {k : FailKind} (h : Ends s i (.fail k t)) :
    t.dstLen = s.dstLen ∧ t.status.dstate = s.status.dstate ∧ (i ≠ .decode → t.origLen = s.origLen) ∧
      SameTotals s t := by
  cases h with
  | encodeOutput =>
    rw [encodeTabled_withTables]
    exact ⟨rfl, rfl, fun _ => rfl, rfl, rfl⟩
  | decodePayload => exact ⟨rfl, rfl, fun h => absurd rfl h, rfl, rfl⟩
  | _ => exact ⟨rfl, rfl, fun _ => rfl, rfl, rfl⟩

/-- Settles O19: what the body left at its `raise`, and the failure commit. -/
theorem failedCommandLeavesNoOutput : Obligations.FailedCommandLeavesNoOutput := by
  intro i s t hexec hfail
  obtain ⟨p, hp, rfl⟩ := exec_ends hexec
  cases p with
  | ok _ t => exact absurd hfail Bool.false_ne_true
  | fail k t =>
    obtain ⟨hdst, hdstate, horig, htotals⟩ := hp.of_fail
    exact ⟨rfl, obufByte_complete_fail hp.sameHostSide.resets, hp.sameHostSide.complete i, dstLen_complete_fail hdst,
      dstate_complete_fail hdstate, horig, htotals.lo, htotals.hi⟩

/-! ## Frames (R74) -/

/-- Settles O26: HIST writes its table and registers, the TreeBuilder the tree and its registers. -/
theorem frameOfHistAndTreeCommands : Obligations.FrameOfHistAndTreeCommands := by
  intro i s t hi hexec
  obtain ⟨p, hp, rfl⟩ := exec_ends hexec
  have hhost := hp.sameHostSide.complete i
  cases hp with
  | hist | histInput =>
    exact ⟨rfl, ⟨rfl, rfl, rfl⟩, fun _ => rfl, rfl, rfl, ⟨rfl, rfl⟩, rfl, rfl, hhost, fun _ => ⟨rfl, rfl, rfl, rfl⟩,
      fun h => absurd rfl h⟩
  | tseed | tmerge | tmergeQueue | tfinQueue =>
    exact ⟨rfl, ⟨rfl, rfl, rfl⟩, fun _ => rfl, rfl, rfl, ⟨rfl, rfl⟩, rfl, rfl, hhost, nofun, fun _ => ⟨rfl, rfl, rfl⟩⟩
  | tfin =>
    rw [procFin_withTree] at hhost ⊢
    exact ⟨rfl, ⟨rfl, rfl, rfl⟩, fun _ => rfl, rfl, rfl, ⟨rfl, rfl⟩, rfl, rfl, hhost, nofun, fun _ => ⟨rfl, rfl, rfl⟩⟩
  | tbuild =>
    rw [procBuild_withTree] at hhost ⊢
    generalize procBuild s = u at *
    exact ⟨rfl, ⟨rfl, rfl, rfl⟩, fun _ => rfl, rfl, rfl, ⟨rfl, rfl⟩, rfl, rfl, hhost, nofun, fun _ => ⟨rfl, rfl, rfl⟩⟩
  | _ => simp at hi

/-- Settles O38: `Depth` writes LEN and TBLV, `Canon` the codes and TBLV. -/
theorem frameOfCodeTableCommands : Obligations.FrameOfCodeTableCommands := by
  intro i s t hi hexec
  obtain ⟨p, hp, rfl⟩ := exec_ends hexec
  have hhost := hp.sameHostSide.complete i
  cases hp with
  | clen =>
    exact ⟨⟨rfl, rfl, rfl⟩, ⟨rfl, rfl, rfl, rfl⟩, fun _ => rfl, rfl, rfl, ⟨rfl, rfl⟩, rfl, hhost,
      fun _ => ⟨rfl, rfl, rfl⟩, nofun⟩
  | ccanon | ccanonKraft =>
    exact ⟨⟨rfl, rfl, rfl⟩, ⟨rfl, rfl, rfl, rfl⟩, fun _ => rfl, rfl, rfl, ⟨rfl, rfl⟩, rfl, hhost, nofun, fun _ => rfl⟩
  | cgen | cgenKraft =>
    exact ⟨⟨rfl, rfl, rfl⟩, ⟨rfl, rfl, rfl, rfl⟩, fun _ => rfl, rfl, rfl, ⟨rfl, rfl⟩, rfl, hhost, nofun, nofun⟩
  | _ => simp at hi

/-- A write of OBUF with its byte count changes no byte outside the range it names. -/
theorem sameObufOutside_writeObuf {s t : State} {dst n : Nat} {bs : List Byte} (hobuf : t.obuf = (s.writeObuf dst bs).obuf)
    (hresets : t.resets = s.resets) (hn : bs.length = n) : SameObufOutside dst n s t := by
  intro a ha
  rw [← s.obufByte_writeObuf_outside dst bs a (by omega)]
  simp only [State.obufByte, hobuf, hresets, State.writeObuf_resets]

/-- Settles O43: PACK and UNPACK write OBUF at DST_OFF, DST_LEN and, PACK, TOTAL_BITS. -/
theorem frameOfPackAndUnpack : Obligations.FrameOfPackAndUnpack := by
  intro i s t hi hexec
  obtain ⟨p, hp, rfl⟩ := exec_ends hexec
  have hhost := hp.sameHostSide.complete i
  cases hp with
  | pack hfits =>
    refine ⟨⟨rfl, rfl, rfl⟩, ⟨rfl, rfl, rfl, rfl⟩, rfl, ⟨rfl, rfl, rfl⟩, rfl, rfl, rfl, hhost, ?_, nofun⟩
    exact sameObufOutside_writeObuf rfl rfl ((packBytes_length _ _).trans hfits.toNat_dstLen.symm)
  | unpack hfits out hout =>
    refine ⟨⟨rfl, rfl, rfl⟩, ⟨rfl, rfl, rfl, rfl⟩, rfl, ⟨rfl, rfl, rfl⟩, rfl, rfl, rfl, hhost, ?_, fun _ => ⟨rfl, rfl⟩⟩
    exact sameObufOutside_writeObuf rfl rfl hout
  | packFail | unpackFail =>
    exact ⟨⟨rfl, rfl, rfl⟩, ⟨rfl, rfl, rfl, rfl⟩, rfl, ⟨rfl, rfl, rfl⟩, rfl, rfl, rfl, hhost, fun _ _ => rfl,
      fun _ => ⟨rfl, rfl⟩⟩
  | _ => simp at hi

/-- R190: the artifact's size fits DST_LEN, for OBUF holds that many bytes. -/
theorem toNat_dstLen_encoded {s t : State} {dst : Nat} {xs : List Byte}
    (hout : dst + artifactSize t ≤ s.obufBytes.toNat) : (encoded dst xs t).dstLen.toNat = artifactSize t := by
  rw [encoded, BitVec.toNat_ofNat, Nat.mod_eq_of_lt ((Nat.le_of_add_left_le hout).trans_lt s.obufBytes.isLt)]

/-- R38, R190: ENCODE writes OBUF only where its artifact goes. -/
theorem sameObufOutside_encode {s : State} (hout : s.dstOff.toNat + artifactSize (encodeTabled s) ≤ s.obufBytes.toNat) :
    SameObufOutside s.dstOff.toNat
      (complete .encode s (.ok () (encoded s.dstOff.toNat s.source (encodeTabled s)))).dstLen.toNat s
      (complete .encode s (.ok () (encoded s.dstOff.toNat s.source (encodeTabled s)))) := by
  have hsize := artifactSize_encodeTables (encodeTables_eq s) s.srcLen.isLt
  rw [complete_ok_dstLen, toNat_dstLen_encoded hout, hsize]
  obtain ⟨u, hu⟩ := exists_encodeTabled_eq s
  rw [hu]
  exact sameObufOutside_writeObuf rfl rfl rfl

/-- Settles O55: ENCODE and DECODE write OBUF only where their output goes, ENCODE never writes DSTATE, and DECODE writes
neither HIST nor the tree nor TOTAL_BITS. -/
theorem frameOfEncodeAndDecode : Obligations.FrameOfEncodeAndDecode := by
  intro i s t hi hexec
  obtain ⟨p, hp, rfl⟩ := exec_ends hexec
  have hhost := hp.sameHostSide.complete i
  cases hp with
  | encode hout =>
    refine ⟨sameObufOutside_encode hout, hhost, fun _ => ?_, nofun⟩
    rw [encodeTabled_withTables]
    rfl
  | encodeInput => exact ⟨fun _ _ => rfl, hhost, fun _ => rfl, nofun⟩
  | encodeOutput =>
    rw [encodeTabled_withTables] at hhost ⊢
    exact ⟨fun a _ => obufByte_complete_fail rfl a, hhost, fun _ => rfl, nofun⟩
  | decode l hk out hout =>
    refine ⟨sameObufOutside_writeObuf (bs := out) rfl rfl ?_, hhost, nofun,
      fun _ => ⟨⟨rfl, rfl, rfl⟩, ⟨rfl, rfl, rfl, rfl⟩, ⟨rfl, rfl⟩, rfl⟩⟩
    exact (Nat.mod_eq_of_lt ((Nat.le_of_add_left_le hout).trans_lt s.obufBytes.isLt)).symm
  | decodeHeader | decodePayload =>
    exact ⟨fun _ _ => rfl, hhost, nofun, fun _ => ⟨⟨rfl, rfl, rfl⟩, ⟨rfl, rfl, rfl, rfl⟩, ⟨rfl, rfl⟩, rfl⟩⟩
  | _ => simp at hi

end Sys2Proof.Machine
end

section
/-! PROOFS. No command reads DONE, FAIL, KIND or LASTOP (spec/40_control.md R111, spec/60_exceptions.md R226): its body does
the same whatever they hold, and the end of the command writes all four. -/

namespace Sys2Proof.Machine

/-- State s with the outcome fields of o in STATUS. -/
def State.withOutcome (o : Status) (s : State) : State :=
  { s with status := { s.status with done := o.done, fail := o.fail, kind := o.kind, lastop := o.lastop } }

section
variable (o : Status) (s : State)

@[simp] theorem State.withOutcome_srcOff : (s.withOutcome o).srcOff = s.srcOff := rfl
@[simp] theorem State.withOutcome_srcLen : (s.withOutcome o).srcLen = s.srcLen := rfl
@[simp] theorem State.withOutcome_dstOff : (s.withOutcome o).dstOff = s.dstOff := rfl
@[simp] theorem State.withOutcome_len : (s.withOutcome o).len = s.len := rfl
@[simp] theorem State.withOutcome_code : (s.withOutcome o).code = s.code := rfl

@[simp] theorem State.withOutcome_ibufRange (off len : Nat) :
    (s.withOutcome o).ibufRange off len = s.ibufRange off len := rfl

@[simp] theorem State.withOutcome_inputFits (off len : Nat) : (s.withOutcome o).inputFits off len = s.inputFits off len :=
  rfl

@[simp] theorem procHist_withOutcome (off len : Nat) :
    procHist off len (s.withOutcome o) = (procHist off len s).withOutcome o := rfl

end

/-- A procedure with another end state. -/
def Proc.mapState {α : Type} (f : State → State) : Proc α → Proc α
  | .ok a s => .ok a (f s)
  | .fail k s => .fail k (f s)

/-- A sequence whose parts both do the same to a changed state does. -/
theorem Proc.andThen_mapState {α β : Type} {f : State → State} {g : α → State → Proc β}
    (hg : ∀ a s, g a (f s) = (g a s).mapState f) (p : Proc α) : (p.mapState f).andThen g = (p.andThen g).mapState f := by
  cases p with
  | ok a s => exact hg a s
  | fail k s => rfl

/-- R110: the end of a command writes all four outcome fields. -/
theorem complete_withOutcome (o : Status) (i : Instr) (s : State) (p : Proc Unit) :
    complete i (s.withOutcome o) (p.mapState (State.withOutcome o)) = complete i s p := by
  cases p <;> rfl

section
variable (o : Status) (s : State)

theorem procFin_withOutcome : procFin (s.withOutcome o) = (procFin s).withOutcome o := by
  have htree : SameTree (procFin s) (procFin (s.withOutcome o)) := SameTree.fin ⟨rfl, rfl, rfl, rfl⟩
  rw [procFin_withTree, procFin_withTree s]
  simp only [State.withTree, htree.node, htree.nodeCount, htree.pqCount, htree.root]
  rfl

theorem procBuild_withOutcome : procBuild (s.withOutcome o) = (procBuild s).withOutcome o := by
  have htree : SameTree (procBuild s) (procBuild (s.withOutcome o)) := sameTree_procBuild rfl
  rw [procBuild_withTree, procBuild_withTree s]
  simp only [State.withTree, htree.node, htree.nodeCount, htree.pqCount, htree.root]
  rfl

theorem procCanon_withOutcome : procCanon (s.withOutcome o) = (procCanon s).mapState (State.withOutcome o) := by
  simp only [procCanon, apply_ite (Proc.mapState (State.withOutcome o))]
  rfl

theorem procPack_withOutcome (off len dst : Nat) :
    procPack off len dst (s.withOutcome o) = (procPack off len dst s).mapState (State.withOutcome o) := by
  simp only [procPack, apply_ite (Proc.mapState (State.withOutcome o))]
  rfl

theorem procUnpack_withOutcome (off len n dst : Nat) :
    procUnpack off len n dst (s.withOutcome o) = (procUnpack off len n dst s).mapState (State.withOutcome o) := by
  simp only [procUnpack, State.withOutcome_len, State.withOutcome_code, State.withOutcome_ibufRange]
  cases readSymbols s.len s.code n (streamBits (s.ibufRange off len)) <;> rfl

theorem encodeTabled_withOutcome : encodeTabled (s.withOutcome o) = (encodeTabled s).withOutcome o := by
  rw [encodeTabled, encodeTabled, State.withOutcome_srcOff, State.withOutcome_srcLen, procHist_withOutcome,
    procBuild_withOutcome]
  generalize procBuild _ = b
  rfl

theorem encodeOutput_withOutcome (off len dst : Nat) :
    encodeOutput off len dst (s.withOutcome o) = (encodeOutput off len dst s).mapState (State.withOutcome o) := by
  simp only [encodeOutput, apply_ite (Proc.mapState (State.withOutcome o))]
  rw [← Proc.andThen_mapState (f := State.withOutcome o) (fun _ _ => rfl), ← procPack_withOutcome]
  rfl

theorem cmdEncode_withOutcome : cmdEncode (s.withOutcome o) = (cmdEncode s).mapState (State.withOutcome o) := by
  by_cases hin : s.srcOff.toNat + s.srcLen.toNat ≤ s.ibufBytes.toNat
  · rw [cmdEncode_of_input s hin, cmdEncode_of_input (s.withOutcome o) hin, encodeTabled_withOutcome,
      ← encodeOutput_withOutcome]
    rfl
  · rw [cmdEncode_input s hin, cmdEncode_input (s.withOutcome o) hin]
    rfl

theorem cmdPack_withOutcome : cmdPack (s.withOutcome o) = (cmdPack s).mapState (State.withOutcome o) := by
  simp only [cmdPack, apply_ite (Proc.mapState (State.withOutcome o))]
  rw [← Proc.andThen_mapState (f := State.withOutcome o) (fun _ _ => rfl), ← procPack_withOutcome]
  rfl

theorem cmdUnpack_withOutcome : cmdUnpack (s.withOutcome o) = (cmdUnpack s).mapState (State.withOutcome o) := by
  simp only [cmdUnpack, apply_ite (Proc.mapState (State.withOutcome o))]
  rw [← Proc.andThen_mapState (f := State.withOutcome o) (fun _ _ => rfl), ← procUnpack_withOutcome]
  rfl

theorem decodePayload_withOutcome (off alen dst : Nat) (h : Header) :
    decodePayload off alen dst h (s.withOutcome o) = (decodePayload off alen dst h s).mapState (State.withOutcome o) := by
  simp only [decodePayload, apply_ite (Proc.mapState (State.withOutcome o))]
  rw [← Proc.andThen_mapState (f := State.withOutcome o) (fun _ _ => rfl), ← procUnpack_withOutcome]
  rfl

theorem commitTable_withOutcome (h : Header) :
    commitTable h (s.withOutcome o) = (commitTable h s).mapState (State.withOutcome o) := by
  rw [commitTable, commitTable, ← Proc.andThen_mapState (f := State.withOutcome o) (fun _ _ => rfl),
    ← procCanon_withOutcome]
  rfl

theorem cmdDecode_withOutcome : cmdDecode (s.withOutcome o) = (cmdDecode s).mapState (State.withOutcome o) := by
  simp only [cmdDecode, State.withOutcome_inputFits, State.withOutcome_ibufRange, State.withOutcome_srcOff,
    State.withOutcome_srcLen, State.withOutcome_dstOff, apply_ite (Proc.mapState (State.withOutcome o))]
  cases parseHeader s.source with
  | error k => rfl
  | ok h =>
    simp only [apply_ite (Proc.mapState (State.withOutcome o))]
    rw [← Proc.andThen_mapState (f := State.withOutcome o) fun _ t => decodePayload_withOutcome o t _ _ _ h,
      ← commitTable_withOutcome]
    rfl

/-- R111: the body of a command does the same whatever the outcome fields hold. -/
theorem body_withOutcome (i : Instr) : body i (s.withOutcome o) = (body i s).mapState (State.withOutcome o) := by
  cases i with
  | nop | srst | tseed | clen => rfl
  | hist =>
    simp only [body, cmdHist, apply_ite (Proc.mapState (State.withOutcome o))]
    rfl
  | tmerge =>
    simp only [body, cmdTmerge, apply_ite (Proc.mapState (State.withOutcome o))]
    rfl
  | tfin =>
    simp only [body, cmdTfin, apply_ite (Proc.mapState (State.withOutcome o)), procFin_withOutcome]
    rfl
  | tbuild => exact congrArg (Proc.ok ()) (procBuild_withOutcome o s)
  | ccanon => exact procCanon_withOutcome o s
  | cgen => exact procCanon_withOutcome o (procDepth s)
  | pack => exact cmdPack_withOutcome o s
  | unpack => exact cmdUnpack_withOutcome o s
  | encode => exact cmdEncode_withOutcome o s
  | decode => exact cmdDecode_withOutcome o s

/-- The previous outcome alters no command. -/
theorem exec_withOutcome (i : Instr) : exec i (s.withOutcome o) = exec i s := by
  rw [exec_eq, exec_eq, body_withOutcome, complete_withOutcome]

end

/-- Settles O18: a STATUS with the same TBLV and DSTATE differs in the outcome fields alone. -/
theorem previousOutcomeIsForgotten : Obligations.PreviousOutcomeIsForgotten := by
  rintro i s old htblv hdstate
  have hold : { s with status := old } = s.withOutcome old := by
    simp only [State.withOutcome, ← htblv, ← hdstate]
  rw [hold, exec_withOutcome]

end Sys2Proof.Machine
end

section
/-! PROOFS. The FrequencyAnalyzer, the TreeBuilder and the CodeTableGenerator, command by command (spec/41_histogram.md,
spec/42_tree_builder.md, spec/43_code_table.md). -/

namespace Sys2Proof.Machine

/-! ## Commands whose body ends well, and sequences of them -/

/-- R110: a command whose body does not fail reports DONE. -/
theorem exec_ok {i : Instr} {s t : State} (h : body i s = .ok () t) : exec i s = .next (complete i s (.ok () t)) := by
  rw [exec_eq, h]

/-- R110: a command whose body fails takes the failure commit. -/
theorem exec_fail {i : Instr} {s t : State} {k : FailKind} (h : body i s = .fail k t) :
    exec i s = .next (complete i s (.fail k t)) := by
  rw [exec_eq, h]

/-- The outcome of a successful command (R110). -/
def successOf (i : Instr) (s : State) : Status := s.status.succeed (opcodeOf (encode i))

theorem complete_ok_eq (i : Instr) (s t : State) : complete i s (.ok () t) = t.withOutcome (successOf i t) := rfl

theorem execAll_withOutcome (o : Status) {is : List Instr} (his : is ≠ []) (s : State) :
    execAll is (s.withOutcome o) = execAll is s := by
  cases is with
  | nil => exact absurd rfl his
  | cons i is => rw [execAll, execAll, exec_withOutcome]

/-- R111: in a sequence the outcome of a command that another one follows does not matter. -/
theorem execAll_cons_ok {i : Instr} {is : List Instr} {s t : State} (h : body i s = .ok () t) (his : is ≠ []) :
    execAll (i :: is) s = execAll is t := by
  rw [execAll, exec_ok h, complete_ok_eq]
  exact execAll_withOutcome _ his t

/-- The state before a successful command does not matter for its end. -/
theorem execAll_last_ok {i : Instr} {s t : State} (u : State) (h : body i s = .ok () t) :
    execAll [i] s = some (complete i u (.ok () t)) := by
  rw [execAll, exec_ok h]
  rfl

/-! ## HIST -/

section
variable {s : State}

theorem body_hist (hin : s.srcOff.toNat + s.srcLen.toNat ≤ s.ibufBytes.toNat) :
    body .hist s = .ok () (procHist s.srcOff.toNat s.srcLen.toNat s) :=
  if_pos (decide_eq_true hin)

theorem body_hist_fail (hin : s.ibufBytes.toNat < s.srcOff.toNat + s.srcLen.toNat) :
    body .hist s = .fail .bufferOverflow s :=
  if_neg fun h => hin.not_ge (of_decide_eq_true h)

end

/-- The number of present symbols fits HIST_NSYM (R28). -/
theorem toNat_histNsym_procHist (off len : Nat) (s : State) :
    (procHist off len s).histNsym.toNat = (presentSymbols (procHist off len s).hist).length := by
  have hle := presentSymbols_length_le (procHist off len s).hist
  rw [procHist_hist] at hle
  exact Nat.mod_eq_of_lt (by omega)

/-- Settles O23: HIST counts every byte of the range, and none of the counters wraps. -/
theorem histCountsTheInputBytes : Obligations.HistCountsTheInputBytes := by
  intro s hin
  refine ⟨_, exec_ok (body_hist hin), rfl, fun x => toNat_getSym_procHist _ s.srcLen.isLt s x, ?_,
    toNat_histNsym_procHist _ _ s⟩
  exact (BitVec.ofNat_toNat ..).trans (BitVec.setWidth_eq _)

/-- Settles O25: the range check comes before the table is cleared. -/
theorem histRangeFailureChangesOnlyStatus : Obligations.HistRangeFailureChangesOnlyStatus :=
  fun _ hin => exec_fail (body_hist_fail hin)

/-! ## TSEED -/

/-- Settles O27: the present symbols in ascending order are the list, and `Seed` writes a Leaf for each from entry 0 on. -/
theorem tseedQueuesOneLeafPerSymbol : Obligations.TseedQueuesOneLeafPerSymbol := by
  intro s
  obtain ⟨hnc, hpq, hroot⟩ := procSeed_counts s
  refine ⟨_, presentSymbols s.hist, exec_ok (i := .tseed) rfl, rfl, presentSymbols_sorted _, mem_presentSymbols _, hnc, hpq,
    hroot, fun i x hx => ?_, fun i hi => entry_procSeed_free s hi⟩
  obtain ⟨hi, rfl⟩ := List.getElem?_eq_some_iff.1 hx
  exact entry_procSeed_leaf s hi

/-! ## TMERGE -/

theorem two_le_iff (c : Count) : 2#9 ≤ c ↔ 2 ≤ c.toNat := BitVec.le_def

theorem lt_two_iff (c : Count) : c < 2#9 ↔ c.toNat < 2 := BitVec.lt_def

section
variable {s : State}

theorem body_tmerge (hq : 2 ≤ s.pqCount.toNat) : body .tmerge s = .ok () (procMerge s) :=
  if_neg fun h => ((lt_two_iff _).1 h).not_ge hq

theorem body_tmerge_fail (hq : s.pqCount.toNat < 2) : body .tmerge s = .fail .badState s :=
  if_pos ((lt_two_iff _).2 hq)

theorem body_tfin (hq : s.pqCount.toNat ≤ 1) : body .tfin s = .ok () (procFin s) :=
  if_neg fun h => ((two_le_iff _).1 h).not_gt (Nat.lt_succ_of_le hq)

theorem body_tfin_fail (hq : 2 ≤ s.pqCount.toNat) : body .tfin s = .fail .badState s :=
  if_pos ((two_le_iff _).2 hq)

end

/-- Settles O28: what `Merge` does on a forest. -/
theorem tmergeJoinsTheTwoLeast : Obligations.TmergeJoinsTheTwoLeast := by
  intro s htree hq
  obtain ⟨a, b, m⟩ := mergeOf_procMerge htree hq
  have hparent := m.parent
  have ha := htree.lt_of_queued m.least.queued
  have hb := htree.lt_of_queued m.queued
  have hroom := s.nodeCount.isLt
  refine ⟨_, a, b, exec_ok (body_tmerge hq), rfl, ha, hb, m.ne.symm, m.least.queued, m.queued, m.least.least,
    m.least_rest, m.joined a (.inl rfl), m.joined b (.inr rfl), ?_⟩
  simp only [complete_ok_node, complete_ok_nodeCount, complete_ok_pqCount, complete_ok_root, hparent, true_and]
  exact ⟨m.parent_freq, toNat_ofNat_idx (by omega), toNat_ofNat_idx (by omega),
    fun i hia hib hi => m.others i hi (not_or.2 ⟨hia, hib⟩), m.nodeCount, m.pqCount, m.root⟩

/-- Settles O29: both commands test PQ_COUNT first. -/
theorem tmergeAndTfinBadState : Obligations.TmergeAndTfinBadState :=
  fun _ => ⟨fun hq => exec_fail (body_tmerge_fail hq), fun hq => exec_fail (body_tfin_fail hq)⟩

/-! ## TFIN -/

/-- Settles O30: the three cases of `Fin`. -/
theorem tfinMakesTheRoot : Obligations.TfinMakesTheRoot := by
  intro s htree hq
  refine ⟨_, exec_ok (body_tfin hq), by rw [procFin_withTree]; rfl, procFin_pqCount s hq, ?_⟩
  obtain ⟨h0, heq⟩ | ⟨h1, r, f, hcases⟩ := procFin_cases htree hq
  · rw [heq]
    exact ⟨fun _ => ⟨rfl, rfl, rfl, rfl⟩, fun h1 => absurd (h0.symm.trans h1) (by decide)⟩
  · refine ⟨fun h0 => absurd (h0.symm.trans h1) (by decide), fun _ => ⟨r.toNat, ?_, f.queued, ?_⟩⟩
    · have := f.last
      omega
    · simp only [complete_ok_node, complete_ok_nodeCount, complete_ok_root]
      obtain ⟨hk, g⟩ | ⟨hk, g⟩ := hcases
      · have hnode : ∀ i, entry (procFin s).node i =
            if i = r.toNat then { entry s.node i with inq := false } else entry s.node i :=
          fun i => by rw [g.node, entry_dequeue]
        refine ⟨by rw [hnode, if_pos rfl], fun _ => ⟨by rw [g.root], g.nodeCount, fun i hi => by rw [hnode, if_neg hi]⟩,
          fun hleaf => ?_⟩
        rw [hk] at hleaf
        cases hleaf
      · obtain ⟨rfl, hnc, -⟩ := f.of_leaf hk
        refine ⟨g.leaf, fun hint => ?_, fun _ => ⟨rfl, hnc, g.nodeCount, g.root, g.root_entry, g.others⟩⟩
        rw [hint] at hk
        cases hk

/-! ## TBUILD -/

/-- Settles O31: the node counts of `Build`, and the merges keep the sum of the counters in the queue. -/
theorem tbuildNodeCountAndRoot : Obligations.TbuildNodeCountAndRoot := by
  intro s
  refine ⟨_, exec_ok (i := .tbuild) rfl, by rw [procBuild_withTree]; rfl, procBuild_pqCount s, ?_⟩
  simp only [complete_ok_node, complete_ok_nodeCount, complete_ok_root, ← sum_presentSymbols]
  obtain ⟨h0, hnc, hroot⟩ | ⟨h1, hnc, hroot, -⟩ | ⟨h2, hbuilt⟩ := procBuild_cases s
  · exact ⟨fun _ => ⟨hnc, hroot⟩, fun h => by omega, fun h => by omega⟩
  · exact ⟨fun h => by omega, fun _ => ⟨hnc, hroot⟩, fun h => by omega⟩
  · exact ⟨fun h => by omega, fun h => by omega, fun _ => hbuilt⟩

theorem mergeLoop_of_le_one {s : State} (hq : s.pqCount.toNat ≤ 1) (n : Nat) : mergeLoop n s = s := by
  cases n with
  | zero => rfl
  | succ n => exact if_neg fun h => ((two_le_iff _).1 h).not_gt (Nat.lt_succ_of_le hq)

theorem mergeLoop_of_two_le {s : State} (hq : 2 ≤ s.pqCount.toNat) (n : Nat) :
    mergeLoop (n + 1) s = mergeLoop n (procMerge s) :=
  if_pos ((two_le_iff _).2 hq)

/-- R138: `n` TMERGE commands and TFIN do what the loop and `Fin` do on a queue of `n + 1` nodes, or of none for n = 0. -/
theorem execAll_merges_fin {n fuel : Nat} {s : State} (hn : s.pqCount.toNat - 1 = n) (hfuel : s.pqCount.toNat ≤ fuel) :
    execAll (List.replicate n .tmerge ++ [.tfin]) s = some (complete .tfin s (.ok () (procFin (mergeLoop fuel s)))) := by
  induction n generalizing s fuel with
  | zero =>
    have hq : s.pqCount.toNat ≤ 1 := by omega
    rw [mergeLoop_of_le_one hq]
    exact execAll_last_ok s (body_tfin hq)
  | succ n ih =>
    have hq : 2 ≤ s.pqCount.toNat := by omega
    have hpq : (procMerge s).pqCount.toNat = s.pqCount.toNat - 1 := by
      rw [procMerge_pqCount]
      bv_omega
    obtain ⟨fuel, rfl⟩ : ∃ m, fuel = m + 1 := ⟨fuel - 1, by omega⟩
    rw [List.replicate_succ, List.cons_append, execAll_cons_ok (body_tmerge hq) (by simp), mergeLoop_of_two_le hq]
    exact ih (by omega) (by omega)

/-- Settles O32: the commands between the first and the last do what `Build` does between `Seed` and `Fin`, and only the
last one's outcome is left. -/
theorem tbuildEqualsTheSequence : Obligations.TbuildEqualsTheSequence := by
  intro s
  obtain ⟨-, hpq, -⟩ := procSeed_counts s
  have hrun : execAll (.tseed :: List.replicate ((presentSymbols s.hist).length - 1) .tmerge ++ [.tfin]) s =
      some (complete .tfin s (.ok () (procBuild s))) := by
    rw [List.cons_append, execAll_cons_ok (i := .tseed) rfl (by simp),
      execAll_merges_fin (fuel := (procSeed s).pqCount.toNat) (by rw [hpq]) le_rfl]
    rfl
  refine ⟨_, hrun, (exec_ok (i := .tbuild) rfl).trans ?_⟩
  generalize procBuild s = t
  rfl

/-! ## Finished trees -/

/-- Settles O33: going up from any node ends at ROOT, and there are not enough Internal nodes for more than 255 steps. -/
theorem rootReachesEveryNode : Obligations.RootReachesEveryNode := by
  intro s htree hroot i hi
  obtain ⟨d, hd⟩ := htree.exists_depth hroot i hi
  exact ⟨d, htree.depth_le hroot hd, hd⟩

/-! ## CLEN, CCANON and CGEN -/

/-- Settles O34: `Visit` writes each Leaf's symbol once, at its depth, and no other entry. -/
theorem clenWritesLeafDepths : Obligations.ClenWritesLeafDepths := by
  intro s htree
  refine ⟨_, exec_ok (i := .clen) rfl, rfl, fun hroot x => ?_,
    fun hroot => ⟨fun i d _ hleaf hd => ?_, fun x hx => getSym_depthTable_other htree hx⟩⟩
  · rw [complete_ok_len, procDepth_len, show s.root = Config.nil from hroot, depthTable_nil, getSym_replicate]
  · exact (toNat_getSym_depthTable htree hroot hd hleaf).symm

/-- Settles O35: the list is `Canon`'s own, and the sums of the blocks before a code give the closed form. -/
theorem ccanonAssignsCanonicalCodes : Obligations.CcanonAssignsCanonicalCodes := fun s hkraft =>
  ⟨_, sortedSymbols s.len, exec_ok (i := .ccanon) (procCanon_ok hkraft), rfl, sortedSymbols_pairwise_keyLt s.len,
    mem_sortedSymbols s.len, canoned_order s, canoned_codeNsym s, fun _ => getSym_canonicalCodes_of_zero,
    fun _ => toNat_getSym_canonicalCodes hkraft⟩

/-- Settles O36: `Canon` clears TBLV and writes no table. -/
theorem ccanonKraftFailure : Obligations.CcanonKraftFailure :=
  fun _ hkraft => exec_fail (i := .ccanon) (procCanon_fail hkraft)

/-- Settles O37: the depths of a tree's leaves meet the Kraft inequality. -/
theorem cgenNeverFailsOnABuiltTree : Obligations.CgenNeverFailsOnABuiltTree := by
  intro s htree
  have hkraft : tableKraft (procDepth s).len ≤ 2 ^ 255 := tableKraft_depthTable_le htree
  have hrun : execAll [.clen, .ccanon] s = some (complete .ccanon s (.ok () (canoned (procDepth s)))) := by
    rw [execAll_cons_ok (i := .clen) rfl (by simp)]
    exact execAll_last_ok (i := .ccanon) s (procCanon_ok hkraft)
  exact ⟨_, exec_ok (i := .cgen) (procCanon_ok hkraft), rfl, hkraft, _, hrun, rfl⟩

end Sys2Proof.Machine
end

section
/-! PROOFS. PACK and UNPACK (spec/44_bitstream.md): the stream that PACK writes, the payloads that UNPACK reads and the ones
it does not, and the order of their tests. -/

namespace Sys2Proof.Machine

/-! ## PACK -/

/-- Settles O39: a byte of the packed stream holds eight of its bits, most significant bit first, and zeros past its end. -/
theorem packWritesCodesMsbFirst : Obligations.PackWritesCodesMsbFirst := by
  intro s htblv hin hcoded hout
  have hfits : PackFits s := ⟨htblv, hin, hcoded, hout⟩
  refine ⟨_, exec_ok (i := .pack) hfits.cmdPack_eq, rfl, hfits.toNat_dstLen, packed_totalBits s, ?_⟩
  have hall : totalBits s.len s.source ≤ 8 * bytesFor (totalBits s.len s.source) := by unfold bytesFor; omega
  rw [complete_ok_dstLen, hfits.toNat_dstLen, obufRange_packed s le_rfl, streamBits_packBytes, symbolBits_length,
    List.take_of_length_le (by rwa [symbolBits_length])]

/-- Settles O40: each test's failure, with all the earlier ones passed, happens before anything is written. -/
theorem packFailuresInOrder : Obligations.PackFailuresInOrder := fun _ =>
  ⟨fun htblv => exec_fail (i := .pack) (cmdPack_no_table htblv),
    fun htblv hin => exec_fail (i := .pack) (cmdPack_input htblv hin),
    fun htblv hin hx => exec_fail (i := .pack) (cmdPack_uncoded htblv hin hx),
    fun htblv hin hcoded hout => exec_fail (i := .pack) (cmdPack_output htblv hin hcoded hout)⟩

/-! ## The value of the bits read -/

/-- What the reader has accumulated after the bits p (R174). -/
def bitsValue (p : List Bool) : Nat := p.foldl (fun acc b => 2 * acc + b.toNat) 0

theorem bitsValue_concat (p : List Bool) (b : Bool) : bitsValue (p ++ [b]) = 2 * bitsValue p + b.toNat := by
  simp only [bitsValue, List.foldl_append, List.foldl_cons, List.foldl_nil]

theorem bool_eq_of_toNat_eq {a b : Bool} (h : a.toNat = b.toNat) : a = b := by
  revert a b
  decide

section
variable {l : SymTable Byte} {c : SymTable Code}

/-- Bits with the value that the first bits of a code have are the beginning of that code. -/
theorem prefix_codeBits_of_value {y : Byte} {p : List Bool} (hlen : p.length ≤ (getSym l y).toNat)
    (hvalue : bitsValue p = codeHead l c y p.length) : p <+: codeBits (getSym l y) (getSym c y) := by
  induction p using List.reverseRecOn with
  | nil => exact List.nil_prefix
  | append_singleton p b ih =>
    rw [List.length_append, List.length_singleton] at hlen hvalue
    rw [bitsValue_concat, codeHead_succ (by omega)] at hvalue
    have hbit := Bool.toNat_le b
    have hbit' := Bool.toNat_le ((getSym c y).getLsbD ((getSym l y).toNat - 1 - p.length))
    have hprefix := ih (by omega) (by omega)
    have hb : b = (getSym c y).getLsbD ((getSym l y).toNat - 1 - p.length) := bool_eq_of_toNat_eq (by omega)
    have hlt : p.length < (codeBits (getSym l y) (getSym c y)).length := by rw [codeBits_length]; omega
    have hnext : p ++ [b] = (codeBits (getSym l y) (getSym c y)).take (p.length + 1) :=
      calc p ++ [b]
          = (codeBits (getSym l y) (getSym c y)).take p.length ++ [(codeBits (getSym l y) (getSym c y))[p.length]] := by
            rw [← List.prefix_iff_eq_take.1 hprefix, getElem_codeBits hlt, hb]
        _ = _ := List.take_append_getElem hlt
    rw [hnext]
    exact List.take_prefix _ _

/-- What `Lookup` found (R173): a code with that length and value, a longer one that begins with it, or neither. -/
theorem lookup_cases (l : SymTable Byte) (c : SymTable Code) (acc n : Nat) :
    (∃ x, lookup l c acc n = .hit x ∧ (getSym l x).toNat = n ∧ codeHead l c x n = acc) ∨
    (lookup l c acc n = .inner ∧ ∃ y, n < (getSym l y).toNat ∧ codeHead l c y n = acc) ∨
    lookup l c acc n = .dead := by
  rw [lookup]
  split
  · next x hfind =>
    have hmatch := List.find?_some hfind
    simp only [Bool.and_eq_true, beq_iff_eq] at hmatch
    obtain ⟨hlen, hcode⟩ := hmatch
    exact .inl ⟨x, rfl, hlen, by rw [← hlen, codeHead_length, hcode]⟩
  · split
    · next hany =>
      obtain ⟨y, -, hy⟩ := List.any_eq_true.1 hany
      simp only [Bool.and_eq_true, decide_eq_true_eq, beq_iff_eq] at hy
      exact .inr (.inl ⟨rfl, y, hy⟩)
    · exact .inr (.inr rfl)

/-- No code begins with the bits p, nor p with a code. -/
def OffTree (l : SymTable Byte) (c : SymTable Code) (p : List Bool) : Prop :=
  ∀ y, getSym l y ≠ 0#8 →
    ¬ codeBits (getSym l y) (getSym c y) <+: p ∧ ¬ p <+: codeBits (getSym l y) (getSym c y)

theorem coded_of_lt {y : Byte} {n : Nat} (h : n < (getSym l y).toNat) : getSym l y ≠ 0#8 := by
  intro h0
  rw [h0] at h
  exact absurd h (Nat.not_lt_zero n)

/-- R174, R175: bits that leave the code tree are found dead before they run out. The bits p are read, and begin a code. -/
theorem readSymbol_offTree {p bits : List Bool} (hp : p = [] ∨ ∃ y, getSym l y ≠ 0#8 ∧
      p <+: codeBits (getSym l y) (getSym c y))
    (hne : p ++ bits ≠ []) (hoff : OffTree l c (p ++ bits)) :
    readSymbol l c bits (bitsValue p) p.length = .error .unassignedCode := by
  induction bits generalizing p with
  | nil =>
    rw [List.append_nil] at hne hoff
    obtain h0 | ⟨y, hy, hprefix⟩ := hp
    · exact absurd h0 hne
    · exact absurd hprefix (hoff y hy).2
  | cons b bits ih =>
    have hlength : p.length + 1 = (p ++ [b]).length := by simp
    have hsplit : p ++ b :: bits = (p ++ [b]) ++ bits := by simp
    rw [readSymbol, ← bitsValue_concat, hlength]
    obtain ⟨x, heq, hlen, hcode⟩ | ⟨heq, y, hlen, hcode⟩ | heq :=
      lookup_cases l c (bitsValue (p ++ [b])) (p ++ [b]).length
    · have hprefix := prefix_codeBits_of_value hlen.ge hcode.symm
      have hwhole := hprefix.eq_of_length (by rw [codeBits_length, hlen])
      exact absurd ⟨bits, by rw [← hwhole, hsplit]⟩ (hoff x (coded_of_lt (n := p.length) (by omega))).1
    · simp only [heq]
      have hprefix := prefix_codeBits_of_value hlen.le hcode.symm
      exact ih (.inr ⟨y, coded_of_lt hlen, hprefix⟩) (by rwa [← hsplit]) (by rwa [← hsplit])
    · simp only [heq]

/-- R174: after some whole symbols the reader fails as it does on the bits that follow them. -/
theorem readSymbols_append_error (h : CodeTree l c) {out : List Byte} (hout : ∀ x ∈ out, getSym l x ≠ 0#8) {n : Nat}
    (hn : out.length < n) {rest : List Bool} {k : FailKind} (hrest : readSymbol l c rest 0 0 = .error k) :
    readSymbols l c n (symbolBits l c out ++ rest) = .error k := by
  induction out generalizing n with
  | nil =>
    obtain ⟨n, rfl⟩ : ∃ m, n = m + 1 := ⟨n - 1, by rw [List.length_nil] at hn; omega⟩
    change readSymbols l c (n + 1) rest = _
    rw [readSymbols, hrest]
  | cons x out ih =>
    rw [List.forall_mem_cons] at hout
    rw [List.length_cons] at hn
    obtain ⟨n, rfl⟩ : ∃ m, n = m + 1 := ⟨n - 1, by omega⟩
    rw [symbolBits_cons, List.append_assoc, readSymbols, readSymbol_codeBits h hout.1]
    simp only [ih hout.2 (Nat.lt_of_succ_lt_succ hn)]

/-- R175(d): a payload that ends before or inside a code. -/
theorem readSymbols_truncated (h : CodeTree l c) {out : List Byte} (hout : ∀ x ∈ out, getSym l x ≠ 0#8) {n : Nat}
    (hn : out.length < n) {rest : List Bool}
    (hrest : rest = [] ∨ ∃ y, getSym l y ≠ 0#8 ∧ rest.length < (getSym l y).toNat ∧
      rest <+: codeBits (getSym l y) (getSym c y)) :
    readSymbols l c n (symbolBits l c out ++ rest) = .error .truncatedPayload := by
  refine readSymbols_append_error h hout hn ?_
  obtain rfl | ⟨y, hy, hlen, hprefix⟩ := hrest
  · rfl
  · exact readSymbol_prefix_codeBits h hy hprefix hlen

/-- R174: a payload that leaves the code tree. -/
theorem readSymbols_unassigned (h : CodeTree l c) {out : List Byte} (hout : ∀ x ∈ out, getSym l x ≠ 0#8) {n : Nat}
    (hn : out.length < n) {rest : List Bool} (hne : rest ≠ []) (hoff : OffTree l c rest) :
    readSymbols l c n (symbolBits l c out ++ rest) = .error .unassignedCode :=
  readSymbols_append_error h hout hn (readSymbol_offTree (p := []) (.inl rfl) hne hoff)

/-- R175: a payload that begins with the codes of n symbols. -/
theorem readSymbols_of_prefix (h : CodeTree l c) {out : List Byte} (hout : ∀ x ∈ out, getSym l x ≠ 0#8) {n : Nat}
    (hn : out.length = n) {bits : List Bool} (hprefix : symbolBits l c out <+: bits) :
    readSymbols l c n bits = .ok out := by
  obtain ⟨rest, rfl⟩ := hprefix
  subst hn
  exact readSymbols_symbolBits h hout rest

end

/-! ## UNPACK -/

/-- Settles O41: the codes of a valid table read as their symbols, whatever follows. -/
theorem unpackEmitsTheEncodedSymbols : Obligations.UnpackEmitsTheEncodedSymbols := by
  intro s out htable htblv hin hout hn hcoded hprefix
  have hread := readSymbols_of_prefix (htable.codeTree htblv) hcoded hn hprefix
  exact ⟨_, UnpackFits.exec_ok ⟨htblv, hin, hout⟩ hread, rfl, rfl, hn ▸ s.obufRange_writeObuf s.dstOff.toNat out⟩

/-- Settles O42: the tests in their order, and then what the reader meets after the whole symbols. -/
theorem unpackFailuresInOrder : Obligations.UnpackFailuresInOrder := by
  intro s failed inRange outRange bits
  refine ⟨fun htblv => exec_fail (i := .unpack) (cmdUnpack_no_table htblv),
    fun htblv hin => exec_fail (i := .unpack) (cmdUnpack_input htblv hin),
    fun htblv hin hout => exec_fail (i := .unpack) (cmdUnpack_output htblv hin hout),
    fun htblv htable hin hout out rest hn hcoded hbits => ?_⟩
  have hfits : UnpackFits s := ⟨htblv, hin, hout⟩
  have htree := htable.codeTree htblv
  have hsource : streamBits s.source = symbolBits s.len s.code out ++ rest := hbits
  refine ⟨fun hrest => hfits.exec_error ?_, fun hne hoff => hfits.exec_error ?_⟩
  · rw [hsource]
    exact readSymbols_truncated htree hcoded hn hrest
  · rw [hsource]
    exact readSymbols_unassigned htree hcoded hn hne hoff

end Sys2Proof.Machine
end

section
/-! PROOFS. ENCODE (spec/45_encoder.md): its tables are those of HIST, TBUILD and CGEN, its two failures, and the bytes of the
artifact it writes (spec/30_encoding.md R90 to R95). -/

namespace Sys2Proof.Machine

/-! ## Bytes of a range that holds a list -/

section
variable {t : State} {dst : Nat} {bs : List Byte}

/-- A range of OBUF is a function of its written bytes and the free ones (R251). -/
theorem State.obufRange_congr {s : State} (hobuf : t.obuf = s.obuf) (hresets : t.resets = s.resets) (off len : Nat) :
    t.obufRange off len = s.obufRange off len := by
  simp only [State.obufRange, State.obufByte, hobuf, hresets]

theorem State.obufRange_part (h : t.obufRange dst bs.length = bs) {k m : Nat} (hk : k + m ≤ bs.length) :
    t.obufRange (dst + k) m = (bs.drop k).take m := by
  conv_rhs => rw [← h]
  refine List.ext_getElem (by simp; omega) fun i _ _ => ?_
  simp [State.obufRange, Nat.add_assoc]

theorem State.obufByte_of_range (h : t.obufRange dst bs.length = bs) {j : Nat} (hj : j < bs.length) :
    t.obufByte (dst + j) = bs.getD j 0#8 := by
  conv_rhs => rw [← h]
  simp [State.obufRange, hj]

end

/-! ## The tables -/

section
variable (s : State)

theorem encodeTabled_tblv : (encodeTabled s).status.tblv = true := by
  rw [encodeTabled]
  rfl

/-- R190: ENCODE's table procedures leave their tables and registers, and TBLV = 1. -/
theorem exists_encodeTabled_tblv :
    ∃ u, encodeTabled s = { s.withTables u with status := { s.status with tblv := true } } := by
  refine ⟨encodeTabled s, ?_⟩
  conv_lhs => rw [encodeTabled_withTables]
  rw [← encodeTabled_tblv s]
  rfl

/-- R190: ENCODE's tables are what HIST, TBUILD and CGEN leave. -/
theorem execAll_tables (hin : s.srcOff.toNat + s.srcLen.toNat ≤ s.ibufBytes.toNat) :
    execAll [.hist, .tbuild, .cgen] s = some (complete .cgen s (.ok () (encodeTabled s))) := by
  rw [execAll_cons_ok (body_hist hin) (by simp), execAll_cons_ok (i := .tbuild) rfl (by simp)]
  have hcgen := encodeTables_eq s
  rw [encodeTables] at hcgen
  exact execAll_last_ok (i := .cgen) s hcgen

/-- R190: the size that check 2 tests, in the artifact's own terms. -/
theorem artifactSize_encodeTabled : artifactSize (encodeTabled s) =
    10 + 2 * (encodeTabled s).codeNsym.toNat + (totalBits (encodeTabled s).len s.source + 7) / 8 := by
  rw [artifactSize, weightedBits_encodeTables (encodeTables_eq s) s.srcLen.isLt]
  rfl

/-- R190, R192: the symbols that ENCODE lists are the distinct input bytes. -/
theorem mem_sortedSymbols_encodeTabled (x : Byte) : x ∈ sortedSymbols (encodeTabled s).len ↔ x ∈ s.source :=
  (mem_sortedSymbols _ x).trans (getSym_encodeTabled_len s x)

theorem codeNsym_encodeTabled :
    (encodeTabled s).codeNsym.toNat = (allSymbols.filter fun x => decide (x ∈ s.source)).length := by
  rw [encodeTables_codeNsym (encodeTables_eq s)]
  refine List.Perm.length_eq ((List.perm_ext_iff_of_nodup (sortedSymbols_nodup _) (allSymbols_nodup.filter _)).2 fun x => ?_)
  rw [mem_sortedSymbols_encodeTabled, List.mem_filter, and_iff_right (mem_allSymbols x), decide_eq_true_iff]

/-- R191: the symbols in ORDER. -/
theorem order_encodeTabled {i : Nat} {x : Byte} (hi : i < (sortedSymbols (encodeTabled s).len).length)
    (hx : (encodeTabled s).order[i]? = some x) : x = (sortedSymbols (encodeTabled s).len)[i] := by
  obtain ⟨-, horder, -⟩ := encodeTables_codes (encodeTables_eq s)
  have hle := sortedSymbols_length_le (encodeTabled s).len
  have hget := getElem?_fillFrom_inside (Vector.replicate 256 0#8) 0 (sortedSymbols (encodeTabled s).len) i hi (by omega)
  rw [horder] at hx
  rw [Nat.zero_add, hx] at hget
  exact Option.some.inj hget

/-! ## The artifact -/

/-- The header of the artifact (R90 to R94). -/
def artifactHeader : Header := ⟨s.srcLen.toNat, tableEntries (encodeTabled s).len⟩

/-- The payload of the artifact (R95). -/
def artifactPayload : List Byte :=
  packBytes (symbolBits (encodeTabled s).len (encodeTabled s).code s.source)
    ((totalBits (encodeTabled s).len s.source + 7) / 8)

theorem artifactHeader_length : headerLen (artifactHeader s).entries.length = 10 + 2 * (encodeTabled s).codeNsym.toNat := by
  rw [encodeTables_codeNsym (encodeTables_eq s), artifactHeader, tableEntries, List.length_map, headerLen]

theorem artifactBytes_encodeTabled :
    artifactBytes s.source (encodeTabled s) = layoutHeader (artifactHeader s) ++ artifactPayload s := by
  rw [artifactBytes, headerBytes_encodeTables (encodeTables_eq s), State.ibufRange_length]
  rfl

theorem artifact_length : (layoutHeader (artifactHeader s) ++ artifactPayload s).length =
    10 + 2 * (encodeTabled s).codeNsym.toNat + (totalBits (encodeTabled s).len s.source + 7) / 8 := by
  rw [List.length_append, layoutHeader_length, artifactHeader_length, artifactPayload, packBytes_length]

/-! ## Success -/

/-- What an ENCODE that does not fail answers. -/
def encodeDone : State := complete .encode s (.ok () (encoded s.dstOff.toNat s.source (encodeTabled s)))

theorem encodeDone_status : (encodeDone s).status =
    { s.status with done := true, fail := false, kind := none, tblv := true, lastop := 0x60#8 } := by
  obtain ⟨u, hu⟩ := exists_encodeTabled_tblv s
  rw [encodeDone, hu]
  rfl

theorem encodeDone_totalBits : (encodeDone s).totalBitsLo.toNat + 2 ^ 32 * (encodeDone s).totalBitsHi.toNat =
    totalBits (encodeTabled s).len s.source :=
  packed_totalBits { s with len := (encodeTabled s).len }

theorem encodeDone_origLen : (encodeDone s).origLen = s.srcLen := by
  have horig : (encodeDone s).origLen = BitVec.ofNat 32 s.source.length := rfl
  rw [horig, State.ibufRange_length, BitVec.ofNat_toNat, BitVec.setWidth_eq]

theorem encodeDone_obuf : (encodeDone s).obuf =
    ((encodeTabled s).writeObuf s.dstOff.toNat (artifactBytes s.source (encodeTabled s))).obuf := by
  simp only [encodeDone, complete_ok_obuf, encoded]

theorem sameHist_encodeDone : SameHist (encodeTabled s) (encodeDone s) := by
  constructor <;> simp [encodeDone, encoded]

theorem sameTree_encodeDone : SameTree (encodeTabled s) (encodeDone s) := by
  constructor <;> simp [encodeDone, encoded]

theorem sameCodes_encodeDone : SameCodes (encodeTabled s) (encodeDone s) := by
  constructor <;> simp [encodeDone, encoded]

@[simp] theorem encodeDone_len : (encodeDone s).len = (encodeTabled s).len := by
  simp [encodeDone, encoded]

/-- R191: the artifact stands at DST_OFF. -/
theorem encodeDone_obufRange :
    (encodeDone s).obufRange s.dstOff.toNat (layoutHeader (artifactHeader s) ++ artifactPayload s).length =
      layoutHeader (artifactHeader s) ++ artifactPayload s := by
  rw [← artifactBytes_encodeTabled, State.obufRange_congr (encodeDone_obuf s) (by simp [encodeDone, encoded])]
  exact (encodeTabled s).obufRange_writeObuf s.dstOff.toNat (artifactBytes s.source (encodeTabled s))

section
variable {s} (hin : s.srcOff.toNat + s.srcLen.toNat ≤ s.ibufBytes.toNat)
include hin

theorem exec_encode_of_fits (hfits : s.dstOff.toNat + artifactSize (encodeTabled s) ≤ s.obufBytes.toNat) :
    exec .encode s = .next (encodeDone s) := by
  refine exec_ok (i := .encode) ((cmdEncode_of_input s hin).trans ?_)
  obtain ⟨hout, -⟩ | ⟨-, heq⟩ := encodeOutput_encodeTabled s
  · exact absurd hfits hout.not_ge
  · exact heq

theorem exec_encode_output (hout : s.obufBytes.toNat < s.dstOff.toNat + artifactSize (encodeTabled s)) :
    exec .encode s = .next (complete .encode s (.fail .bufferOverflow (encodeTabled s))) := by
  refine exec_fail (i := .encode) ((cmdEncode_of_input s hin).trans ?_)
  obtain ⟨-, heq⟩ | ⟨hfits, -⟩ := encodeOutput_encodeTabled s
  · exact heq
  · exact absurd hfits hout.not_ge

end

/-! ### The bytes -/

theorem encodeDone_magic : (encodeDone s).obufRange s.dstOff.toNat 4 = [0x48#8, 0x55#8, 0x46#8, 0x31#8] := by
  have hlen := artifact_length s
  exact State.obufRange_part (k := 0) (encodeDone_obufRange s) (by omega)

/-- R92, R93: originalLength and symbolCount, least byte first. -/
theorem encodeDone_counts :
    le32 ((encodeDone s).obufByte (s.dstOff.toNat + 4)) ((encodeDone s).obufByte (s.dstOff.toNat + 5))
        ((encodeDone s).obufByte (s.dstOff.toNat + 6)) ((encodeDone s).obufByte (s.dstOff.toNat + 7)) = s.srcLen.toNat ∧
      le16 ((encodeDone s).obufByte (s.dstOff.toNat + 8)) ((encodeDone s).obufByte (s.dstOff.toNat + 9)) =
        (encodeTabled s).codeNsym.toNat := by
  have hlen := artifact_length s
  have hcount := encodeTables_codeNsym_le (encodeTables_eq s)
  have hentries : (artifactHeader s).entries.length = (encodeTabled s).codeNsym.toNat := by
    have := artifactHeader_length s
    rw [headerLen] at this
    omega
  have hbyte : ∀ j, j < 10 → (encodeDone s).obufByte (s.dstOff.toNat + j) =
      (layoutHeader (artifactHeader s) ++ artifactPayload s).getD j 0#8 :=
    fun j hj => State.obufByte_of_range (encodeDone_obufRange s) (by omega)
  rw [hbyte 4 (by decide), hbyte 5 (by decide), hbyte 6 (by decide), hbyte 7 (by decide), hbyte 8 (by decide),
    hbyte 9 (by decide)]
  refine ⟨le32_leByte s.srcLen.isLt, ?_⟩
  rw [← hentries] at hcount ⊢
  exact le16_ofNat (by omega)

/-- R94: entry i of the symbol table. -/
theorem encodeDone_entry {i : Nat} (hi : i < (sortedSymbols (encodeTabled s).len).length) :
    (encodeDone s).obufByte (s.dstOff.toNat + 10 + 2 * i) = (sortedSymbols (encodeTabled s).len)[i] ∧
      (encodeDone s).obufByte (s.dstOff.toNat + 11 + 2 * i) =
        getSym (encodeTabled s).len (sortedSymbols (encodeTabled s).len)[i] := by
  have hlen := artifact_length s
  have hcount := encodeTables_codeNsym (encodeTables_eq s)
  have hi' : i < (artifactHeader s).entries.length := by rwa [artifactHeader, tableEntries, List.length_map]
  have hbyte : ∀ j, j < 2 * (artifactHeader s).entries.length → (encodeDone s).obufByte (s.dstOff.toNat + (10 + j)) =
      ((artifactHeader s).entries.flatMap (fun e => [e.1, e.2]) ++ artifactPayload s).getD j 0#8 := fun j hj => by
    rw [artifactHeader, tableEntries, List.length_map] at hj
    rw [State.obufByte_of_range (encodeDone_obufRange s) (by omega), layoutHeader_append,
      List.getD_append_right _ _ _ _ (Nat.le_add_right 10 j)]
    exact congrArg (List.getD _ · _) (Nat.add_sub_cancel_left 10 j)
  have hentry := getD_flatMap_entries (artifactHeader s).entries (artifactPayload s) hi'
  rw [Prod.ext_iff] at hentry
  rw [Nat.add_assoc, hbyte _ (by omega), Nat.add_assoc, show 11 + 2 * i = 10 + (2 * i + 1) by omega, hbyte _ (by omega)]
  simpa [artifactHeader, tableEntries] using hentry

/-- R95: the payload is behind the header. -/
theorem encodeDone_payload : (encodeDone s).obufRange (s.dstOff.toNat + 10 + 2 * (encodeTabled s).codeNsym.toNat)
    ((totalBits (encodeTabled s).len s.source + 7) / 8) = artifactPayload s := by
  have hlen := artifact_length s
  rw [Nat.add_assoc, State.obufRange_part (encodeDone_obufRange s) (by omega), ← artifactHeader_length,
    ← layoutHeader_length, List.drop_left]
  exact List.take_of_length_le (by rw [artifactPayload, packBytes_length])

theorem streamBits_artifactPayload : streamBits (artifactPayload s) =
    symbolBits (encodeTabled s).len (encodeTabled s).code s.source ++
      List.replicate (8 * ((totalBits (encodeTabled s).len s.source + 7) / 8) - totalBits (encodeTabled s).len s.source)
        false := by
  rw [artifactPayload, streamBits_packBytes, symbolBits_length,
    List.take_of_length_le (by rw [symbolBits_length]; omega)]

end

/-- Settles O47: the tables are those of the three commands, and the artifact at DST_OFF is the header of the code table and
the packed codes. -/
theorem encodeWritesTheArtifact : Obligations.EncodeWritesTheArtifact := by
  intro s hin
  refine ⟨_, execAll_tables s hin, rfl, fun hfits => ?_⟩
  have hsize := artifactSize_encodeTabled s
  have hroom : s.dstOff.toNat + artifactSize (encodeTabled s) ≤ s.obufBytes.toNat := hsize ▸ hfits
  obtain ⟨horig, hcount⟩ := encodeDone_counts s
  obtain ⟨hhist, htotal, hnsym⟩ := sameHist_encodeDone s
  obtain ⟨hnode, hnc, hpq, hroot⟩ := sameTree_encodeDone s
  obtain ⟨hcode, horder, hcodes⟩ := sameCodes_encodeDone s
  refine ⟨_, exec_encode_of_fits hin hroom, encodeDone_status s, (toNat_dstLen_encoded (xs := s.source) hroom).trans hsize,
    encodeDone_origLen s, encodeDone_totalBits s, ⟨hhist, htotal, hnsym⟩, ⟨hnode, hnc, hpq, hroot⟩, encodeDone_len s,
    ⟨hcode, horder, hcodes⟩, codeNsym_encodeTabled s, encodeDone_magic s, horig, hcount, fun i x hi hx => ?_, ?_⟩
  · have hi' : i < (sortedSymbols (encodeTabled s).len).length := encodeTables_codeNsym (encodeTables_eq s) ▸ hi
    rw [horder] at hx
    rw [encodeDone_len, order_encodeTabled s hi' hx]
    exact encodeDone_entry s hi'
  · rw [encodeDone_len, hcode]
    exact (congrArg streamBits (encodeDone_payload s)).trans (streamBits_artifactPayload s)

/-- Settles O48: check 1 comes before the tables are built, check 2 after, and the failure commit takes back OBUF alone. -/
theorem encodeFailures : Obligations.EncodeFailures := by
  intro s
  refine ⟨fun hin => exec_fail (i := .encode) (cmdEncode_input s hin.not_ge),
    fun hin => ⟨_, execAll_tables s hin, rfl, fun hout => ?_⟩⟩
  rw [exec_encode_output hin ((artifactSize_encodeTabled s).symm ▸ hout)]
  obtain ⟨u, hu⟩ := exists_encodeTabled_tblv s
  rw [hu]
  rfl

/-! ## Special inputs (R192) -/

/-- R120: HIST of ENCODE's input counts a byte exactly when it occurs. -/
theorem mem_presentSymbols_procHist (s : State) (x : Byte) :
    x ∈ presentSymbols (procHist s.srcOff.toNat s.srcLen.toNat s).hist ↔ x ∈ s.source := by
  rw [mem_presentSymbols, ← List.count_pos_iff, State.source,
    ← toNat_getSym_procHist s.srcOff.toNat s.srcLen.isLt s x, Nat.pos_iff_ne_zero, Ne, Ne, ← BitVec.toNat_inj,
    BitVec.toNat_zero]

theorem encodeTabled_root (s : State) :
    (encodeTabled s).root = (procBuild (procHist s.srcOff.toNat s.srcLen.toNat s)).root := by
  rw [encodeTabled]
  generalize procBuild _ = b
  rfl

/-- Settles O49: without an input byte there is no symbol, no tree and no payload. -/
theorem emptyInputEncodesToTenBytes : Obligations.EmptyInputEncodesToTenBytes := by
  intro s hlen hoff hout
  have hzero : s.srcLen.toNat = 0 := congrArg BitVec.toNat hlen
  have hsource : s.source = [] := List.length_eq_zero_iff.1 ((s.ibufRange_length _ _).trans hzero)
  have hsyms : sortedSymbols (encodeTabled s).len = [] := List.eq_nil_iff_forall_not_mem.2 fun x => by
    rw [mem_sortedSymbols_encodeTabled, hsource]
    exact List.not_mem_nil
  have hcount : (encodeTabled s).codeNsym.toNat = 0 := by
    rw [encodeTables_codeNsym (encodeTables_eq s), hsyms, List.length_nil]
  have htotal : totalBits (encodeTabled s).len [] = 0 := rfl
  have hsize : artifactSize (encodeTabled s) = 10 := by
    rw [artifactSize_encodeTabled, hcount, hsource, htotal]
  have hroom : s.dstOff.toNat + artifactSize (encodeTabled s) ≤ s.obufBytes.toNat := by rwa [hsize]
  refine ⟨_, exec_encode_of_fits (by omega) hroom, encodeDone_status s, ?_, ?_, BitVec.eq_of_toNat_eq hcount, ?_⟩
  · exact BitVec.eq_of_toNat_eq ((toNat_dstLen_encoded (xs := s.source) hroom).trans hsize)
  · have hpresent : (presentSymbols (procHist s.srcOff.toNat s.srcLen.toNat s).hist).length = 0 :=
      List.length_eq_zero_iff.2 (List.eq_nil_iff_forall_not_mem.2 fun x => by
        rw [mem_presentSymbols_procHist, hsource]
        exact List.not_mem_nil)
    refine (encodeTabled_root s).trans ?_
    obtain ⟨-, -, hroot⟩ | ⟨h1, -⟩ | ⟨h2, -⟩ := procBuild_cases (procHist s.srcOff.toNat s.srcLen.toNat s)
    · exact hroot
    · omega
    · omega
  · have hart : layoutHeader (artifactHeader s) ++ artifactPayload s =
        [0x48#8, 0x55#8, 0x46#8, 0x31#8, 0#8, 0#8, 0#8, 0#8, 0#8, 0#8] := by
      rw [artifactHeader, artifactPayload, tableEntries, hsyms, hsource, hzero, htotal]
      simp [layoutHeader, packBytes, leByte, Config.magic, List.range_succ]
    have hbytes := encodeDone_obufRange s
    rwa [hart] at hbytes

/-- A lone symbol's code bits: one zero bit for each occurrence. -/
theorem symbolBits_replicate {l : SymTable Byte} {c : SymTable Code} {x : Byte} (hlen : getSym l x = 1#8)
    (hcode : getSym c x = 0#255) (n : Nat) : symbolBits l c (List.replicate n x) = List.replicate n false := by
  have hbits : codeBits (getSym l x) (getSym c x) = [false] := by
    rw [hlen, hcode]
    decide
  rw [symbolBits, List.flatMap_replicate, hbits, List.flatten_replicate_singleton]

theorem packBytes_replicate_false (n m : Nat) : packBytes (List.replicate n false) m = List.replicate m 0#8 := by
  refine List.eq_replicate_iff.2 ⟨packBytes_length _ _, fun b hb => ?_⟩
  obtain ⟨q, -, rfl⟩ := List.mem_map.1 hb
  simp [packByte]

section
variable {s : State} {x : Byte}

/-- R192(b): the code table of one repeated byte. -/
theorem sortedSymbols_lone (hx : ∀ y, y ∈ s.source ↔ y = x) : sortedSymbols (encodeTabled s).len = [x] := by
  refine List.perm_singleton.1 ((List.perm_ext_iff_of_nodup (sortedSymbols_nodup _) (List.nodup_singleton x)).2 fun y => ?_)
  rw [mem_sortedSymbols_encodeTabled, hx, List.mem_singleton]

theorem getSym_encodeTabled_len_lone (hx : ∀ y, y ∈ s.source ↔ y = x) : getSym (encodeTabled s).len x = 1#8 := by
  have hpresent : presentSymbols (procHist s.srcOff.toNat s.srcLen.toNat s).hist = [x] := by
    refine List.perm_singleton.1
      ((List.perm_ext_iff_of_nodup (allSymbols_nodup.filter _) (List.nodup_singleton x)).2 fun y => ?_)
    rw [← presentSymbols, mem_presentSymbols_procHist, hx, List.mem_singleton]
  rw [encodeTabled_len]
  refine getSym_depthTable_lone (by rw [hpresent]; rfl) ((mem_presentSymbols _ x).1 ?_)
  rw [hpresent]
  exact List.mem_singleton_self x

theorem getSym_encodeTabled_code_lone (hx : ∀ y, y ∈ s.source ↔ y = x) : getSym (encodeTabled s).code x = 0#255 := by
  obtain ⟨hcode, -, -⟩ := encodeTables_codes (encodeTables_eq s)
  rw [hcode, sortedSymbols_lone hx]
  exact getSym_setSym_same _ _ _

end

/-- Settles O50: one symbol has the synthetic tree, so the code of length 1 and value 0. -/
theorem loneSymbolEncodesToZeroBits : Obligations.LoneSymbolEncodesToZeroBits := by
  intro s x hpos hin hsource hout
  have hx : ∀ y, y ∈ s.source ↔ y = x := fun y => by
    rw [State.source, hsource, List.mem_replicate, and_iff_right (by omega)]
  have hsyms := sortedSymbols_lone hx
  have hlen := getSym_encodeTabled_len_lone hx
  have hcount : (encodeTabled s).codeNsym.toNat = 1 := by
    rw [encodeTables_codeNsym (encodeTables_eq s), hsyms]
    rfl
  have htotal : totalBits (encodeTabled s).len s.source = s.srcLen.toNat := by
    rw [State.source, hsource, totalBits, List.map_replicate, hlen, List.sum_replicate, smul_eq_mul]
    exact Nat.mul_one _
  have hsize : artifactSize (encodeTabled s) = 12 + (s.srcLen.toNat + 7) / 8 := by
    rw [artifactSize_encodeTabled, hcount, htotal]
  have hroom : s.dstOff.toNat + artifactSize (encodeTabled s) ≤ s.obufBytes.toNat := by omega
  refine ⟨_, exec_encode_of_fits hin hroom, rfl, (toNat_dstLen_encoded (xs := s.source) hroom).trans hsize, BitVec.eq_of_toNat_eq hcount,
    ?_, ?_⟩
  · have hentry := encodeDone_entry s (i := 0) (by rw [hsyms]; exact Nat.one_pos)
    simp only [hsyms, List.getElem_cons_zero, hlen] at hentry
    exact congrArg₂ (fun a b => [a, b]) hentry.1 hentry.2
  · have hpayload := encodeDone_payload s
    rw [hcount, htotal, artifactPayload, htotal, State.source, hsource,
      symbolBits_replicate hlen (getSym_encodeTabled_code_lone hx), packBytes_replicate_false] at hpayload
    exact hpayload

end Sys2Proof.Machine
end

section
/-! PROOFS. DECODE (spec/46_decoder.md): the header that the artifact's bytes describe, the failures before and after the
table commit, and the symbols that a good payload gives. -/

namespace Sys2Proof.Machine

/-! ## The header's bytes -/

/-- The header that the bytes at SRC_OFF describe (R90 to R94). -/
def artHeader (s : State) : Header where
  origLen := artOrigLen s
  entries := (List.range (artCount s)).map fun i => (artSym s i, artLen s i)

section
variable (s : State)

theorem artHeader_entries_length : (artHeader s).entries.length = artCount s := by
  rw [artHeader, List.length_map, List.length_range]

theorem getD_source {i : Nat} (hi : i < s.srcLen.toNat) : s.source.getD i 0#8 = artByte s i := by
  simp [State.source, State.ibufRange, artByte, hi]

theorem take_source (h : 10 ≤ s.srcLen.toNat) :
    s.source.take 4 = [artByte s 0, artByte s 1, artByte s 2, artByte s 3] := by
  have hmin : min 4 s.srcLen.toNat = 4 := by omega
  simp only [State.source, State.ibufRange, ← List.map_take, List.take_range, hmin]
  rfl

/-- R201: the tests of stage ParsingHeader on an artifact of at least ten bytes. -/
theorem parseHeader_source (h : 10 ≤ s.srcLen.toNat) :
    parseHeader s.source =
      if [artByte s 0, artByte s 1, artByte s 2, artByte s 3] ≠ [0x48#8, 0x55#8, 0x46#8, 0x31#8] then
        .error .invalidHeader
      else if 256 < artCount s then .error .invalidHeader
      else if s.srcLen.toNat < 10 + 2 * artCount s then .error .invalidHeader
      else .ok (artHeader s) := by
  have hbyte : ∀ i, i < 10 → s.source.getD i 0#8 = artByte s i := fun i hi => getD_source s (by omega)
  have hlen : s.source.length = s.srcLen.toNat := s.ibufRange_length _ _
  have hcount : le16 (artByte s 8) (artByte s 9) = artCount s := rfl
  have horig : le32 (artByte s 4) (artByte s 5) (artByte s 6) (artByte s 7) = artOrigLen s := rfl
  simp only [parseHeader, hlen, h.not_gt, if_false, take_source s h, hbyte 4 (by decide), hbyte 5 (by decide),
    hbyte 6 (by decide), hbyte 7 (by decide), hbyte 8 (by decide), hbyte 9 (by decide), hcount, horig, headerLen,
    Config.magic]
  refine if_congr Iff.rfl rfl (if_congr Iff.rfl rfl ?_)
  by_cases hfull : s.srcLen.toNat < 10 + 2 * artCount s
  · rw [if_pos hfull, if_pos hfull]
  · rw [if_neg hfull, if_neg hfull, artHeader]
    refine congrArg (fun es => Except.ok (Header.mk _ es)) (List.map_congr_left fun i hi => ?_)
    have hlt := List.mem_range.1 hi
    rw [getD_source s (by omega), getD_source s (by omega), artSym, artLen]

theorem parseHeader_source_ok (h : HeaderOk s) : parseHeader s.source = .ok (artHeader s) := by
  obtain ⟨hmin, hmagic, hcount, hfull⟩ := h
  rw [parseHeader_source s hmin, if_neg (not_not.2 hmagic), if_neg hcount.not_gt, if_neg hfull.not_gt]

theorem parseHeader_source_error
    (h : s.srcLen.toNat < 10 ∨ [artByte s 0, artByte s 1, artByte s 2, artByte s 3] ≠ [0x48#8, 0x55#8, 0x46#8, 0x31#8] ∨
      256 < artCount s ∨ s.srcLen.toNat < 10 + 2 * artCount s) : parseHeader s.source = .error .invalidHeader := by
  by_cases hmin : s.srcLen.toNat < 10
  · have hlen : s.source.length < 10 := (s.ibufRange_length _ _).trans_lt hmin
    simp only [parseHeader, hlen, if_true]
  · rw [parseHeader_source s (Nat.not_lt.1 hmin)]
    obtain h | h | h | h := h
    · exact absurd h hmin
    · exact if_pos h
    · rw [if_pos h, ite_self]
    · rw [if_pos h, ite_self, ite_self]

/-- R202: the tests of stage ValidatingLengths, on the artifact's bytes. -/
theorem lengthsValid_artHeader : lengthsValid (artHeader s).entries = true ↔ LengthsOk s := by
  rw [lengthsValid_iff]
  refine and_congr ?_ (and_congr ?_ ?_)
  · simp [artHeader]
  · rw [artHeader, List.map_map, List.Nodup, List.pairwise_map, List.pairwise_iff_getElem]
    simp only [List.length_range, List.getElem_range, Function.comp_apply]
    exact ⟨fun h j hj i hij => h i j (hij.trans hj) hj hij, fun h i j _ hj hij => h j hj i hij⟩
  · rw [artHeader, List.map_map]
    rfl

/-- R205: the payload is the rest of the artifact. -/
theorem streamBits_drop_source :
    streamBits (s.source.drop (headerLen (artHeader s).entries.length)) = artPayload s := by
  rw [artHeader_entries_length, State.source, State.ibufRange_drop, artPayload, headerLen, Nat.sub_sub, Nat.add_assoc]

/-- The LEN table that the header describes (R204). -/
@[irreducible] def artLens : SymTable Byte := headerLens (artHeader s)

/-- A symbol that the header lists gets its entry's length. -/
theorem getSym_artLens_listed (h : LengthsOk s) {i : Nat} (hi : i < artCount s) :
    getSym (artLens s) (artSym s i) = artLen s i := by
  obtain ⟨-, hnodup, -⟩ := lengthsValid_iff.1 ((lengthsValid_artHeader s).2 h)
  have hmem : (artSym s i, artLen s i) ∈ (artHeader s).entries := List.mem_map.2 ⟨i, List.mem_range.2 hi, rfl⟩
  rw [artLens]
  exact getSym_loadLengths_of_mem hnodup hmem

/-- A symbol that the header does not list gets length 0. -/
theorem getSym_artLens_unlisted {x : Byte} (hx : ∀ i, i < artCount s → artSym s i ≠ x) : getSym (artLens s) x = 0#8 := by
  rw [artLens, headerLens, getSym_loadLengths_of_notMem, getSym_replicate]
  intro hmem
  simp only [artHeader, List.map_map, List.mem_map, List.mem_range, Function.comp_apply] at hmem
  obtain ⟨i, hi, rfl⟩ := hmem
  exact hx i hi rfl

theorem tableKraft_artLens (h : LengthsOk s) : tableKraft (artLens s) ≤ 2 ^ 255 := by
  rw [artLens]
  exact tableKraft_headerLens ((lengthsValid_artHeader s).2 h)

theorem codedSymbols_artLens_length (h : LengthsOk s) : (codedSymbols (artLens s)).length = artCount s := by
  obtain ⟨hpos, hnodup, -⟩ := lengthsValid_iff.1 ((lengthsValid_artHeader s).2 h)
  rw [artLens, headerLens, (codedSymbols_loadLengths_perm hnodup hpos).length_eq, List.length_map,
    artHeader_entries_length]

end

/-! ## The header's table -/

/-- The state after CCANON of other lengths (R157). -/
def canonedWith (l : SymTable Byte) (s : State) : State := complete .ccanon s (.ok () (canoned { s with len := l }))

section
variable {l : SymTable Byte} (h : tableKraft l ≤ 2 ^ 255) (s : State)
include h

theorem exec_ccanon_with : exec .ccanon { s with len := l } = .next (canonedWith l s) :=
  exec_ok (i := .ccanon) (procCanon_ok (s := { s with len := l }) h)

theorem tableOk_canonedWith : TableOk (canonedWith l s) :=
  (tableOk_canoned (s := { s with len := l }) h).congr rfl rfl ⟨rfl, rfl, rfl⟩

theorem codeTree_canonicalCodes : CodeTree l (canonicalCodes l) :=
  (tableOk_canonedWith h State.reset).codeTree rfl

end

theorem codeNsym_canonedWith (l : SymTable Byte) (s : State) :
    (canonedWith l s).codeNsym.toNat = (codedSymbols l).length :=
  (canoned_codeNsym { s with len := l }).trans (sortedSymbols_length l)

/-- R204: CCANON of the header's lengths makes the header's table. -/
theorem headerTable_canonedWith {s : State} (h : LengthsOk s) : HeaderTable s (canonedWith (artLens s) s) :=
  ⟨artLens s, fun _ hi => getSym_artLens_listed s h hi, fun _ hx => getSym_artLens_unlisted s hx,
    exec_ccanon_with (tableKraft_artLens s h) s, rfl⟩

/-! ## The command -/

section
variable {s : State} (hin : s.srcOff.toNat + s.srcLen.toNat ≤ s.ibufBytes.toNat)
include hin

theorem cmdDecode_header {k : FailKind} (hparse : parseHeader s.source = .error k) : cmdDecode s = .fail k s := by
  have hfits : s.inputFits s.srcOff.toNat s.srcLen.toNat = true := decide_eq_true hin
  simp only [cmdDecode, hfits, hparse, if_true]

theorem cmdDecode_lengths {h : Header} (hparse : parseHeader s.source = .ok h) (hvalid : lengthsValid h.entries = false) :
    cmdDecode s = .fail .inconsistentCodeLengths s := by
  have hfits : s.inputFits s.srcOff.toNat s.srcLen.toNat = true := decide_eq_true hin
  simp only [cmdDecode, hfits, hparse, hvalid, if_true, Bool.false_eq_true, if_false]

/-- The body of DECODE on a header that passes both stages (R204 to R206). -/
theorem cmdDecode_artHeader (hheader : HeaderOk s) (hlengths : LengthsOk s) :
    cmdDecode s = decodePayload s.srcOff.toNat s.srcLen.toNat s.dstOff.toNat (artHeader s)
      (tableCommitted (headerLens (artHeader s)) (artHeader s).origLen s) :=
  cmdDecode_of_valid hin (parseHeader_source_ok s hheader) ((lengthsValid_artHeader s).2 hlengths)

theorem exec_decode_output (hheader : HeaderOk s) (hlengths : LengthsOk s)
    (hout : s.obufBytes.toNat < s.dstOff.toNat + artOrigLen s) :
    exec .decode s = .next (complete .decode s (.fail .bufferOverflow (tableCommitted (artLens s) (artOrigLen s) s))) := by
  rw [artLens]
  exact exec_fail (i := .decode) ((cmdDecode_artHeader hin hheader hlengths).trans (decodePayload_output hout))

theorem exec_decode_error (hheader : HeaderOk s) (hlengths : LengthsOk s)
    (hout : s.dstOff.toNat + artOrigLen s ≤ s.obufBytes.toNat) {k : FailKind}
    (hread : readSymbols (artLens s) (canonicalCodes (artLens s)) (artOrigLen s) (artPayload s) = .error k) :
    exec .decode s = .next (complete .decode s (.fail k (tableCommitted (artLens s) (artOrigLen s) s))) := by
  rw [← streamBits_drop_source, artLens] at hread
  rw [artLens]
  exact exec_fail (i := .decode) ((cmdDecode_artHeader hin hheader hlengths).trans (decodePayload_error hout hread))

theorem exec_decode_decoded (hheader : HeaderOk s) (hlengths : LengthsOk s)
    (hout : s.dstOff.toNat + artOrigLen s ≤ s.obufBytes.toNat) {out : List Byte}
    (hread : readSymbols (artLens s) (canonicalCodes (artLens s)) (artOrigLen s) (artPayload s) = .ok out) :
    exec .decode s = .next (complete .decode s (.ok () (decoded (artLens s) out s))) := by
  rw [← streamBits_drop_source, artLens] at hread
  rw [artLens]
  exact exec_ok (i := .decode) ((cmdDecode_artHeader hin hheader hlengths).trans (decodePayload_decoded hout hread))

end

/-- Settles O52: the range check, stage ParsingHeader and stage ValidatingLengths come before anything is written. -/
theorem decodeRejectsBadHeaders : Obligations.DecodeRejectsBadHeaders := by
  intro s failed inRange
  refine ⟨fun hin => exec_fail (i := .decode) ?_, fun hin hbad => exec_fail (i := .decode) ?_,
    fun hin hheader hbad => exec_fail (i := .decode) ?_⟩
  · exact if_neg fun hfits => hin (of_decide_eq_true hfits)
  · exact cmdDecode_header hin (parseHeader_source_error s hbad)
  · refine cmdDecode_lengths hin (parseHeader_source_ok s hheader) (Bool.eq_false_of_not_eq_true fun hvalid => ?_)
    obtain ⟨hpos, hnodup, hsum⟩ := (lengthsValid_artHeader s).1 hvalid
    obtain ⟨i, hi, h0⟩ | ⟨i, j, hij, hj, hsym⟩ | hover := hbad
    · exact hpos i hi h0
    · exact hnodup j hj i hij hsym
    · exact hover.not_ge hsum

/-- Settles O53: the header's table is `Canon`'s own, so its codes are a tree and the payload reads as the symbols. -/
theorem decodeRestoresTheSymbols : Obligations.DecodeRestoresTheSymbols := by
  intro s hin hheader hlengths
  have hkraft := tableKraft_artLens s hlengths
  refine ⟨_, headerTable_canonedWith hlengths, rfl,
    (codeNsym_canonedWith _ s).trans (codedSymbols_artLens_length s hlengths), tableOk_canonedWith hkraft s,
    fun out hn hout hcoded hprefix => ?_⟩
  have hread := readSymbols_of_prefix (codeTree_canonicalCodes hkraft) hcoded hn hprefix
  have hsmall : out.length < 2 ^ 32 := by
    have := s.obufBytes.isLt
    omega
  have hcount : (BitVec.ofNat 32 out.length).toNat = artOrigLen s := by
    rw [BitVec.toNat_ofNat, Nat.mod_eq_of_lt hsmall, hn]
  refine ⟨_, exec_decode_decoded hin hheader hlengths hout hread, rfl, rfl, ⟨rfl, rfl, rfl⟩, hcount, hcount, ?_⟩
  rw [← hn]
  exact (tableCommitted _ out.length s).obufRange_writeObuf s.dstOff.toNat out

/-- Settles O54: after the commit come the capacity check and then the payload, and the failure commit takes back OBUF
alone. -/
theorem decodeFailuresAfterTheCommit : Obligations.DecodeFailuresAfterTheCommit := by
  intro s hin hheader hlengths
  refine ⟨_, headerTable_canonedWith hlengths, exec_decode_output hin hheader hlengths,
    fun hout out rest hn hcoded hbits => ?_⟩
  have htree := codeTree_canonicalCodes (tableKraft_artLens s hlengths)
  refine ⟨fun hrest => exec_decode_error hin hheader hlengths hout ?_,
    fun hne hoff => exec_decode_error hin hheader hlengths hout ?_⟩
  · rw [hbits]
    exact readSymbols_truncated htree hcoded hn hrest
  · rw [hbits]
    exact readSymbols_unassigned htree hcoded hn hne hoff

end Sys2Proof.Machine
end

section
/-! PROOFS. Command words (spec/30_encoding.md R80 to R82), the step (spec/00_scope.md R8), and what the host reads and writes
(spec/10_state.md R23 to R38, spec/20_memory.md R60 to R64). -/

namespace Sys2Proof

/-! ## Command words -/

/-- A word is its reserved bits and its opcode (R80). -/
theorem word_eq_of_fields {v w : Word} (hzero : v.extractLsb' 8 24 = w.extractLsb' 8 24)
    (hop : v.extractLsb' 0 8 = w.extractLsb' 0 8) : v = w := by
  rw [← BitVec.toNat_inj, BitVec.extractLsb'_toNat, BitVec.extractLsb'_toNat] at hzero hop
  have hv := v.isLt
  have hw := w.isLt
  refine BitVec.eq_of_toNat_eq ?_
  simp only [Nat.shiftRight_eq_div_pow] at hzero hop
  omega

/-- R81: each row of the opcode map is its command's encoding. -/
theorem fields_of_mem_opcodeMap : ∀ r ∈ opcodeMap,
    (encode r.instr).extractLsb' 8 24 = 0#24 ∧ (encode r.instr).extractLsb' 0 8 = r.opcode := by
  decide

theorem mem_opcodeMap_of_instrOfOpcode {op : Byte} {i : Instr} (h : instrOfOpcode op = some i) :
    ⟨op, i⟩ ∈ opcodeMap := by
  obtain ⟨r, hfind, rfl⟩ := Option.map_eq_some_iff.1 h
  have hop := List.find?_some hfind
  obtain rfl : r.opcode = op := by simpa using hop
  exact List.mem_of_find?_eq_some hfind

/-- Settles O3: a command's opcode names its row of the map, and the word has no other bits. -/
theorem commandHasOneWord : Obligations.CommandHasOneWord := by
  intro w i h
  obtain ⟨hzero, hop⟩ := (decode_eq_command_iff w i).1 h
  obtain ⟨hzero', hop'⟩ := fields_of_mem_opcodeMap _ (mem_opcodeMap_of_instrOfOpcode hop)
  exact word_eq_of_fields (hzero.trans hzero'.symm) hop'.symm

/-- Settles O2: the fourteen words of the map. -/
theorem encodedCommandDecodesToItself : Obligations.EncodedCommandDecodesToItself := by
  intro i _
  cases i <;> rfl

/-- Settles O4: the listed words. -/
theorem listedWordsDecode : Obligations.ListedWordsDecode := by
  unfold Obligations.ListedWordsDecode
  decide

namespace Machine

/-! ## The step -/

/-- Settles O5: what a step does with the script, and what a CMD write does. -/
theorem stepRunsTheDecodedCommand : Obligations.StepRunsTheDecodedCommand := by
  refine fun s => ⟨step_idle s, step_event s, fun w i rest hscript hdecode => ?_⟩
  rw [step_event s _ rest hscript]
  exact execute_command w i _ hdecode

/-- Settles O8: the hardware reset writes every field but the parameters and the model's own. -/
theorem hardwareResetForgetsAllButParameters : Obligations.HardwareResetForgetsAllButParameters :=
  fun s rest hscript => ⟨_, step_event s _ rest hscript, rfl, fun _ => rfl, fun _ => rfl⟩

/-! ## Table reads -/

section
variable {α : Type} {n : Nat}

theorem getElem?_toNat_getD (t : SymTable α) (x : Byte) (v : α) : t[x.toNat]?.getD v = getSym t x := by
  rw [Vector.getElem?_eq_getElem x.isLt]
  rfl

theorem getElem?_getD_of_le (t : Vector α n) {i : Nat} (hi : n ≤ i) (v : α) : t[i]?.getD v = v := by
  rw [Vector.getElem?_eq_none hi]
  rfl

theorem getElem?_replicate_getD (i : Nat) (v : α) : (Vector.replicate n v)[i]?.getD v = v := by
  by_cases hi : i < n
  · simp [hi]
  · exact getElem?_getD_of_le _ (Nat.not_lt.1 hi) v

end

theorem toNat_setWidth_word {n : Nat} (v : BitVec n) (hn : n ≤ 32) : (v.setWidth 32).toNat = v.toNat :=
  BitVec.toNat_setWidth_of_le hn

/-- R23: the indices from 17 on are reserved. -/
theorem csrRead_of_le (s : State) {i : Nat} (hi : 17 ≤ i) : csrRead s i = 0#32 := by
  unfold csrRead
  split
  case h_18 => rfl
  all_goals omega

/-- R64: word w of a CODE entry. -/
theorem toNat_hostReadWord_code (s : State) (x : Byte) {w : Nat} (hw : w < 8) :
    (hostReadWord s .code (8 * x.toNat + w)).toNat = (getSym s.code x).toNat / 2 ^ (32 * w) % 2 ^ 32 := by
  have hdiv : (8 * x.toNat + w) / 8 = x.toNat := by omega
  have hmod : (8 * x.toNat + w) % 8 = w := by omega
  rw [hostReadWord, hdiv, hmod, getElem?_toNat_getD, codeWord, BitVec.extractLsb'_toNat, Nat.shiftRight_eq_div_pow]

/-- The first k words of a number, lowest first. -/
theorem sum_words (c k : Nat) :
    ((List.range k).map fun w => c / 2 ^ (32 * w) % 2 ^ 32 * 2 ^ (32 * w)).sum = c % 2 ^ (32 * k) := by
  induction k with
  | zero => simp [Nat.mod_one]
  | succ k ih =>
    rw [List.range_succ, List.map_append, List.sum_append, ih, Nat.mul_succ, Nat.pow_add, Nat.mod_mul]
    simp [Nat.mul_comm]

/-- Settles O14: eight words hold 256 bits, and the value has 255. -/
theorem codeEntryIsEightWords : Obligations.CodeEntryIsEightWords := by
  intro s x
  have hwords : ∀ w ∈ List.range 8, (hostReadWord s .code (8 * x.toNat + w)).toNat * 2 ^ (32 * w) =
      (getSym s.code x).toNat / 2 ^ (32 * w) % 2 ^ 32 * 2 ^ (32 * w) :=
    fun w hw => by rw [toNat_hostReadWord_code s x (List.mem_range.1 hw)]
  rw [List.map_congr_left hwords, sum_words]
  exact Nat.mod_eq_of_lt ((getSym s.code x).isLt.trans (by decide))

theorem hostReadWord_code_of_le (s : State) {i : Nat} (hi : 2048 ≤ i) : hostReadWord s .code i = 0#32 := by
  rw [hostReadWord, getElem?_getD_of_le _ (show 256 ≤ i / 8 by omega), codeWord]
  simp

theorem hostReadWord_node_of_le (s : State) {i : Nat} (hi : 2044 ≤ i) : hostReadWord s .node i = 0#32 := by
  have hnone : s.node[i / 4]? = none := Vector.getElem?_eq_none (by omega)
  simp only [hostReadWord, hnone]

/-! ## Reads at reset -/

theorem entry_reset (i : Nat) : entry State.reset.node i = Node.free := getElem?_replicate_getD i Node.free

theorem csrRead_reset {i : Nat} (h0 : i ≠ 0) (h13 : i ≠ 13) : csrRead State.reset i = 0#32 := by
  unfold csrRead
  split
  case h_1 => exact absurd rfl h0
  case h_14 => exact absurd rfl h13
  all_goals rfl

/-- Settles O7: the reset state's tables hold one value throughout. -/
theorem resetHoldsTheListedValues : Obligations.ResetHoldsTheListedValues := by
  refine ⟨⟨rfl, rfl, rfl, fun i h0 h13 => csrRead_reset h0 h13⟩, fun i => ⟨getElem?_replicate_getD i _, ?_, ?_, ?_⟩,
    fun i hi => ?_, rfl, rfl⟩
  · exact congrArg (BitVec.setWidth 32) (getElem?_replicate_getD i 0#8)
  · have hcode : State.reset.code[i / 8]?.getD 0#255 = 0#255 := getElem?_replicate_getD (i / 8) _
    rw [hostReadWord, hcode, codeWord]
    simp
  · exact congrArg (BitVec.setWidth 32) (getElem?_replicate_getD i 0#8)
  · have hread : ∀ k, k < 4 → hostReadWord State.reset .node (4 * i + k) = nodeWord Node.free k := fun k hk => by
      rw [hostReadWord_node _ hi hk, entry_reset]
    exact ⟨hread 0 (by decide), hread 1 (by decide), hread 2 (by decide), hread 3 (by decide)⟩

/-! ## Host reads -/

theorem hostReadByte_ibuf (s : State) {i : Nat} (hi : i < s.ibufBytes.toNat) : hostReadByte s .ibuf i = s.ibufByte i :=
  if_pos hi

theorem hostReadByte_obuf (s : State) {i : Nat} (hi : i < s.obufBytes.toNat) : hostReadByte s .obuf i = s.obufByte i :=
  if_pos hi

/-- R30, R34, R36: HIST, LEN and ORDER are read by symbol or rank, zero-extended. -/
theorem hostReadWord_tables (s : State) (x : Byte) : hostReadWord s .hist x.toNat = getSym s.hist x ∧
    (hostReadWord s .len x.toNat).toNat = (getSym s.len x).toNat ∧
    (hostReadWord s .order x.toNat).toNat = (getSym s.order x).toNat := by
  simp only [hostReadWord, getElem?_toNat_getD, toNat_setWidth_word _ (show 8 ≤ 32 by decide), and_self]

theorem hostReadWord_tables_of_le (s : State) {i : Nat} (hi : 256 ≤ i) : hostReadWord s .hist i = 0#32 ∧
    hostReadWord s .len i = 0#32 ∧ hostReadWord s .order i = 0#32 := by
  simp only [hostReadWord, getElem?_getD_of_le _ hi, true_and]
  exact ⟨rfl, rfl⟩

/-- Settles O9: the unit of each space and index, in range and out of it. -/
theorem hostReadsHaveNoSideEffect : Obligations.HostReadsHaveNoSideEffect := by
  intro s i
  refine ⟨fun _ => rfl, fun _ => rfl, hostReadWord_tables s, ?_, hostReadByte_ibuf s, hostReadByte_obuf s,
    csrRead_of_le s, hostReadWord_tables_of_le s, hostReadWord_code_of_le s, hostReadWord_node_of_le s,
    fun hi => if_neg hi.not_gt, fun hi => if_neg hi.not_gt⟩
  have hcount : ∀ c : Count, (c.setWidth 32).toNat = c.toNat := fun c => toNat_setWidth_word c (by decide)
  exact ⟨rfl, rfl, rfl, rfl, rfl, rfl, rfl, rfl, rfl, hcount _, hcount _, hcount _, hcount _, hcount _, rfl,
    toNat_setWidth_word _ (by decide)⟩

/-! ## CSR writes -/

/-- R23: only indices 3 to 6 store a word. -/
theorem csrStore_of_not_operand (s : State) (v : Word) {i : Nat} (hi : i < 3 ∨ 7 ≤ i) : csrStore s i v = s := by
  unfold csrStore
  split
  case h_5 => rfl
  all_goals omega

/-- A CSR write changes no other CSR. -/
theorem csrRead_csrStore_other (s : State) (v : Word) {i j : Nat} (hj : j ≠ i) :
    csrRead (csrStore s i v) j = csrRead s j := by
  unfold csrStore
  split
  case h_5 => rfl
  all_goals
    unfold csrRead
    split <;> trivial

/-- What a CSR write that is not a command leaves alone beyond the CSRs. -/
theorem csrStore_frame (s : State) (i : Nat) (v : Word) :
    (csrStore s i v).status = s.status ∧ SameHist s (csrStore s i v) ∧ SameTree s (csrStore s i v) ∧
      (csrStore s i v).len = s.len ∧ SameCodes s (csrStore s i v) ∧ (csrStore s i v).ibuf = s.ibuf ∧
      (csrStore s i v).obuf = s.obuf := by
  unfold csrStore
  split <;> exact ⟨rfl, ⟨rfl, rfl, rfl⟩, ⟨rfl, rfl, rfl, rfl⟩, rfl, ⟨rfl, rfl, rfl⟩, rfl, rfl⟩

theorem csrRead_csrStore_same (s : State) (v : Word) {i : Nat} (hlow : 3 ≤ i) (hhigh : i ≤ 6) :
    csrRead (csrStore s i v) i = v := by
  interval_cases i <;> rfl

/-- Settles O10: the operand registers store the word, every other index but CMD's ignores it. -/
theorem csrAccessRights : Obligations.CsrAccessRights := by
  refine fun s v => ⟨rfl, rfl, fun _ => csrRead_of_le s, fun i h1 hi => ?_, fun i hlow hhigh => ?_⟩
  · rw [perform_csrWrite i v s h1, csrStore_of_not_operand s v hi]
  · exact ⟨_, perform_csrWrite i v s (by rw [cmdIndex]; omega), csrRead_csrStore_same s v hlow hhigh,
      fun j hj => csrRead_csrStore_other s v hj, csrStore_frame s i v⟩

/-! ## STATUS -/

/-- The layout of STATUS, from bit 0 up (R26). -/
theorem Status.toWord_bits (t : Status) :
    t.toWord.getLsbD 0 = t.done ∧ t.toWord.getLsbD 1 = t.fail ∧ t.toWord.getLsbD 2 = t.tblv ∧
      t.toWord.getLsbD 3 = false := by
  simp only [Status.toWord, BitVec.getLsbD_append, BitVec.getLsbD_ofBool]
  simp

theorem Status.toWord_fields (t : Status) :
    t.toWord.extractLsb' 4 4 = kindCode t.kind ∧ t.toWord.extractLsb' 8 3 = t.dstate.code ∧
      t.toWord.extractLsb' 11 5 = 0#5 ∧ t.toWord.extractLsb' 16 8 = t.lastop ∧ t.toWord.extractLsb' 24 8 = 0#8 := by
  refine ⟨?kind, ?dstate, ?gap, ?lastop, ?top⟩
  all_goals
    simp (disch := decide) only [Status.toWord, BitVec.extractLsb'_append_eq_of_le,
      BitVec.extractLsb'_append_eq_of_add_le]
    exact BitVec.extractLsb'_eq_self

/-- Settles O11: the fields of STATUS, and the codes of KIND and DSTATE. -/
theorem statusWordLayout : Obligations.StatusWordLayout := by
  intro s w
  obtain ⟨hdone, hfail, htblv, hgap⟩ := s.status.toWord_bits
  obtain ⟨hkind, hdstate, hgap', hlastop, htop⟩ := s.status.toWord_fields
  refine ⟨hdone, hfail, htblv, hgap, ?_, ?_, hgap', hlastop, htop⟩
  · refine (congrArg BitVec.toNat hkind).trans ?_
    cases s.status.kind with
    | none => rfl
    | some k => cases k <;> rfl
  · refine (congrArg BitVec.toNat hdstate).trans ?_
    cases s.status.dstate <;> rfl

/-! ## Table and buffer writes -/

theorem setIfInBounds_toNat {α : Type} (t : SymTable α) (x : Byte) (v : α) : t.setIfInBounds x.toNat v = setSym t x v := by
  refine symTable_ext _ _ fun y => ?_
  simp [getSym, setSym, Vector.getElem_setIfInBounds, Vector.getElem_set]

theorem setIfInBounds_of_le {α : Type} {n : Nat} (t : Vector α n) {i : Nat} (hi : n ≤ i) (v : α) :
    t.setIfInBounds i v = t := by
  refine Vector.ext fun j hj => ?_
  rw [Vector.getElem_setIfInBounds hj, if_neg (by omega)]

/-- R29, R34: a write of LEN stores the low byte and clears TBLV. -/
theorem perform_writeLen (s : State) (x : Byte) (v : Word) : perform (.writeWord .len x.toNat v) s =
    .next ({ s with len := setSym s.len x (v.extractLsb' 0 8) }.setTblv false) := by
  have hstore : tableStore s .len x.toNat v =
      { s with len := s.len.setIfInBounds x.toNat (v.setWidth 8) }.setTblv false := if_pos x.isLt
  rw [setIfInBounds_toNat, BitVec.setWidth_eq_extractLsb' (by decide)] at hstore
  exact congrArg Host.Outcome.next hstore

/-- R30: a write of HIST stores the word. -/
theorem perform_writeHist (s : State) (x : Byte) (v : Word) :
    perform (.writeWord .hist x.toNat v) s = .next { s with hist := setSym s.hist x v } := by
  rw [← setIfInBounds_toNat]
  rfl

theorem tableStore_of_le (s : State) {i : Nat} (hi : 256 ≤ i) (v : Word) :
    tableStore s .hist i v = s ∧ tableStore s .len i v = s := by
  refine ⟨?_, if_neg hi.not_gt⟩
  rw [tableStore, setIfInBounds_of_le s.hist hi v]

/-- Settles O12: a write of LEN or HIST in range is a write of one entry; the others write nothing. -/
theorem tableWritesStoreOneEntry : Obligations.TableWritesStoreOneEntry := by
  intro s v x
  refine ⟨⟨_, perform_writeLen s x v, getSym_setSym_same _ _ _, fun y hy => getSym_setSym_other _ _ hy, rfl⟩,
    ⟨_, perform_writeHist s x v, getSym_setSym_same _ _ _, fun y hy => getSym_setSym_other _ _ hy, rfl⟩,
    fun i => ⟨rfl, rfl, rfl⟩, fun i hi => ?_⟩
  obtain ⟨hhist, hlen⟩ := tableStore_of_le s hi v
  exact ⟨congrArg Host.Outcome.next hhist, congrArg Host.Outcome.next hlen⟩

/-- Settles O13: a write of IBUF in range is a write of one byte; the others write nothing. -/
theorem bufferWritesStoreOneByte : Obligations.BufferWritesStoreOneByte := by
  intro s a b
  refine ⟨fun ha => ⟨{ s with ibuf := Memory.write s.ibuf a b }, congrArg Host.Outcome.next (if_pos ha), ?_,
    fun a' ha' => ?_, rfl⟩, fun ha => congrArg Host.Outcome.next (if_neg ha.not_gt), rfl⟩
  · refine (hostReadByte_ibuf { s with ibuf := Memory.write s.ibuf a b } ha).trans ?_
    rw [State.ibufByte, Memory.lookup_write_same]
    rfl
  · simp only [State.ibufByte, Memory.lookup_write_other _ _ ha']

end Machine

end Sys2Proof
end
